-- ==== Sys2Proof/Word.lean ====
section
/-! DEFINITION. The machine's word types (spec/10_state.md R9, R10: bit 0 is the least significant bit; everything is unsigned). -/

namespace Sys2Proof

/-- A byte of the data buffer (10 R40). -/
abbrev Byte := BitVec 8

/-- A register word, `REG_WIDTH` = 32 bits (00 R9). -/
abbrev Word := BitVec 32

/-- A transaction word `T` (30 R101). -/
abbrev TxWord := BitVec 64

/-- The field `PAGE` of a transaction word: the locality of a bus access (20 R71). -/
abbrev Page := BitVec 3

/-- The field `OFF` of a transaction word: a page offset, or a buffer index for `BE.WR` (30 R101). -/
abbrev Offset := BitVec 12

end Sys2Proof
end

