-- ==== Sys2Proof/Syntax.lean ====
section
/-! DEFINITION. The transactions of the three agents (spec/30_encoding.md R100, R108): one constructor per row of
spec/opcode_table.json, in the table's order, each with every operand its word carries. -/

namespace Sys2Proof

/-- Size of a bus access (20 R77, 30 R103): 1, 2 or 4 bytes. -/
inductive Size where
  | b1 | b2 | b4
deriving DecidableEq, Repr

/-- The agents whose steps act on the device (00 R7). -/
inductive Agent where
  | bus | backend | host
deriving DecidableEq, Repr

/-- The transactions. `page` is the locality of a bus access, `off` its page offset, `value` the written value (30 R105). -/
inductive Instr where
  /-- RD.REG (40 R131) -/
  | rdReg (size : Size) (page : Page) (off : Offset)
  /-- RD.BUF (40 R132) -/
  | rdBuf (size : Size) (page : Page) (off : Offset)
  /-- WR.LOC_CTRL.REQUEST_ACCESS (41 R151) -/
  | wrLocRequest (size : Size) (page : Page)
  /-- WR.LOC_CTRL.RELINQUISH (41 R152) -/
  | wrLocRelinquish (size : Size) (page : Page)
  /-- WR.LOC_CTRL.SEIZE (41 R153) -/
  | wrLocSeize (size : Size) (page : Page)
  /-- WR.LOC_CTRL.RESET_ESTABLISHMENT_BIT (41 R154) -/
  | wrLocResetEst (size : Size) (page : Page)
  /-- WR.LOC_CTRL.OTHER (41 R155) -/
  | wrLocOther (size : Size) (page : Page) (value : Word)
  /-- WR.CTRL_REQ.CMD_READY (42 R170) -/
  | wrReqCmdReady (size : Size) (page : Page)
  /-- WR.CTRL_REQ.GO_IDLE (42 R171) -/
  | wrReqGoIdle (size : Size) (page : Page)
  /-- WR.CTRL_REQ.OTHER (42 R172) -/
  | wrReqOther (size : Size) (page : Page) (value : Word)
  /-- WR.CTRL_CANCEL.CANCEL (42 R173) -/
  | wrCancelCancel (size : Size) (page : Page)
  /-- WR.CTRL_CANCEL.OTHER (42 R174) -/
  | wrCancelOther (size : Size) (page : Page) (value : Word)
  /-- WR.CTRL_START.INVOKE (42 R175) -/
  | wrStartInvoke (size : Size) (page : Page)
  /-- WR.CTRL_START.OTHER (42 R176) -/
  | wrStartOther (size : Size) (page : Page) (value : Word)
  /-- WR.REG.NOEFFECT (40 R134) -/
  | wrRegNoEffect (size : Size) (page : Page) (off : Offset) (value : Word)
  /-- WR.BUF (40 R133) -/
  | wrBuf (size : Size) (page : Page) (off : Offset) (value : Word)
  /-- BE.WR (43 R200): buffer index and byte -/
  | beWr (index : Offset) (byte : Byte)
  /-- BE.DONE.OK (43 R201) -/
  | beDoneOk
  /-- BE.DONE.FAIL (43 R202) -/
  | beDoneFail (status : Word)
  /-- HOST.RESET (44 R220) -/
  | hostReset
  /-- HOST.SAVE (44 R224) -/
  | hostSave
  /-- HOST.RESTORE (44 R226); its snapshot stands beside the word (30 R101) -/
  | hostRestore
deriving DecidableEq, Repr

end Sys2Proof
end

