-- ==== Sys2Proof/Machine/Map.lean ====
section
/-! DEFINITION. The numbers of the register map and of the encoding: parameters (spec/00_scope.md R9), register offsets
(spec/20_memory.md R81), token values (spec/30_encoding.md R107) and size codes (R103), each written once.
PRESUMED by the spec from general knowledge: the token values and the offset 0x6C (notes/assumptions/12). -/

namespace Sys2Proof.Machine

/-- `LOC_PAGES` (00 R9, D1). -/
def locPages : Nat := 5
/-- `BUF_OFF` (00 R9): page offset of the data buffer. -/
def bufOff : Nat := 0x80
/-- `ARCH_MAX` (00 R9, D10). -/
def archMax : Nat := 0xF80
/-- The least `BE_MAX` of every configuration (00 R9, 44 R220, R221, D11). -/
def beMaxFloor : Nat := 6

/-! Register offsets (20 R81). -/
def offLocState : Offset := 0x000#12
def offLocCtrl : Offset := 0x008#12
def offLocSts : Offset := 0x00C#12
def offIntfId : Offset := 0x030#12
def offIntfId2 : Offset := 0x034#12
def offCtrlReq : Offset := 0x040#12
def offCtrlSts : Offset := 0x044#12
def offCtrlCancel : Offset := 0x048#12
def offCtrlStart : Offset := 0x04C#12
def offCmdSize : Offset := 0x058#12
def offCmdLaddr : Offset := 0x05C#12
def offCmdHaddr : Offset := 0x060#12
def offRspSize : Offset := 0x064#12
def offRspAddrLow : Offset := 0x068#12
def offRspAddrHigh : Offset := 0x06C#12

/-! Token values (30 R107, D4). -/
def tokRequestAccess : Word := 0x1#32
def tokRelinquish : Word := 0x2#32
def tokSeize : Word := 0x4#32
def tokResetEst : Word := 0x8#32
def tokCmdReady : Word := 0x1#32
def tokGoIdle : Word := 0x2#32
def tokCancel : Word := 0x1#32
def tokInvoke : Word := 0x1#32

/-- Bytes of an access: `n = 1 << SIZE` (30 R103). -/
def sizeBytes : Size → Nat
  | .b1 => 1
  | .b2 => 2
  | .b4 => 4

/-- The `SIZE` code (30 R103). -/
def sizeCode : Size → BitVec 2
  | .b1 => 0#2
  | .b2 => 1#2
  | .b4 => 2#2

/-- The size a code stands for; code 3 stands for none (30 R103). -/
def sizeOfCode (c : BitVec 2) : Option Size :=
  if c = 0#2 then some .b1 else if c = 1#2 then some .b2 else if c = 2#2 then some .b4 else none

/-- The value fits the access (30 R104 `wf_wdata`): `DATA < 2^(8n)`. -/
def fitsSize (size : Size) (value : Word) : Bool := decide (value.toNat < 2 ^ (8 * sizeBytes size))

/-- The page offset lies in the register area (20 R72). -/
def isRegOffset (off : Offset) : Bool := decide (off.toNat < bufOff)

/-- The offsets whose writes are commands (20 R79, 30 R108 rows 3 to 14). -/
def isCommandOffset (off : Offset) : Bool :=
  off == offLocCtrl || off == offCtrlReq || off == offCtrlCancel || off == offCtrlStart

end Sys2Proof.Machine
end

