-- ==== Sys2Proof/WellFormed.lean ====
section
/-! DEFINITION. Well-formedness: the named checks of a transaction word (spec/30_encoding.md R104) and the terms of `Instr`
that some word stands for (R108). -/

namespace Sys2Proof

open Sys2Proof.Machine

/-- The checks of 30 R104; each names the refusal of a word that fails it (60 R258). -/
inductive WfCheck where
  /-- `WF_OP`: OP is 7 to 15. -/
  | op
  /-- `WF_RSVD`: RSVD is not 0. -/
  | rsvd
  /-- `WF_SIZE`: SIZE 3 on a bus word, or SIZE not 0 on another. -/
  | size
  /-- `WF_RDATA`: DATA not 0 on a bus read. -/
  | rdata
  /-- `WF_WDATA`: the written value does not fit the access size. -/
  | wdata
  /-- `WF_BEDATA`: BE.WR with DATA above 0xFF or PAGE not 0. -/
  | bedata
  /-- `WF_DONE`: BE.DONE with PAGE or OFF not 0. -/
  | done
  /-- `WF_HOST`: a host word with DATA, PAGE or OFF not 0. -/
  | host
deriving DecidableEq, Repr

/-- The instruction is one that a transaction word stands for: its operands lie where its row of 30 R108 has them.
An operand of a row "any other" is none of the tokens of the rows above it. -/
def wellFormed : Instr → Bool
  | .rdReg _ _ off => isRegOffset off
  | .rdBuf _ _ off => !isRegOffset off
  | .wrLocRequest _ _ => true
  | .wrLocRelinquish _ _ => true
  | .wrLocSeize _ _ => true
  | .wrLocResetEst _ _ => true
  | .wrLocOther size _ v =>
    fitsSize size v && v != tokRequestAccess && v != tokRelinquish && v != tokSeize && v != tokResetEst
  | .wrReqCmdReady _ _ => true
  | .wrReqGoIdle _ _ => true
  | .wrReqOther size _ v => fitsSize size v && v != tokCmdReady && v != tokGoIdle
  | .wrCancelCancel _ _ => true
  | .wrCancelOther size _ v => fitsSize size v && v != tokCancel
  | .wrStartInvoke _ _ => true
  | .wrStartOther size _ v => fitsSize size v && v != tokInvoke
  | .wrRegNoEffect size _ off v => isRegOffset off && !isCommandOffset off && fitsSize size v
  | .wrBuf size _ off v => !isRegOffset off && fitsSize size v
  | .beWr _ _ => true
  | .beDoneOk => true
  | .beDoneFail st => st != 0#32
  | .hostReset => true
  | .hostSave => true
  | .hostRestore => true

end Sys2Proof
end

