-- ==== Sys2Proof/Decode.lean ====
section
/-! DEFINITION. Decoding and encoding of transaction words (spec/30_encoding.md R101 to R109): the fields, the
well-formedness checks in the order of R104, the rows of R108, and the encoder written from the same table. -/

namespace Sys2Proof

open Sys2Proof.Machine

/-! The fields of a transaction word (30 R101). -/
def txData (t : TxWord) : Word := t.extractLsb' 32 32
def txOp (t : TxWord) : BitVec 4 := t.extractLsb' 28 4
def txSize (t : TxWord) : BitVec 2 := t.extractLsb' 26 2
def txRsvd (t : TxWord) : BitVec 11 := t.extractLsb' 15 11
def txPage (t : TxWord) : Page := t.extractLsb' 12 3
def txOff (t : TxWord) : Offset := t.extractLsb' 0 12

/-- `DATA < 2^(8 << SIZE)`: the written value fits the access size (30 R104 `wf_wdata`). -/
def txFits (t : TxWord) : Bool := decide ((txData t).toNat < 2 ^ (8 <<< (txSize t).toNat))

/-- The first check of 30 R104 that the word fails, in the order listed there; none for a well-formed word. -/
def checkWord (t : TxWord) : Option WfCheck :=
  let op := (txOp t).toNat
  if op > 6 then some .op
  else if txRsvd t ≠ 0#11 then some .rsvd
  else if op ≤ 1 ∧ txSize t = 3#2 then some .size
  else if op > 1 ∧ txSize t ≠ 0#2 then some .size
  else if op = 0 ∧ txData t ≠ 0#32 then some .rdata
  else if op = 1 ∧ txFits t = false then some .wdata
  else if op = 2 ∧ ¬ ((txData t).toNat < 0x100 ∧ txPage t = 0#3) then some .bedata
  else if op = 3 ∧ ¬ (txPage t = 0#3 ∧ txOff t = 0#12) then some .done
  else if op ≥ 4 ∧ ¬ (txData t = 0#32 ∧ txPage t = 0#3 ∧ txOff t = 0#12) then some .host
  else none

/-- Rows 1 and 2 of 30 R108: a bus read. -/
def decodeRead (size : Size) (page : Page) (off : Offset) : Instr :=
  if isRegOffset off then .rdReg size page off else .rdBuf size page off

/-- Rows 3 to 7: Locality Control. -/
def decodeLocCtrl (size : Size) (page : Page) (v : Word) : Instr :=
  if v = tokRequestAccess then .wrLocRequest size page
  else if v = tokRelinquish then .wrLocRelinquish size page
  else if v = tokSeize then .wrLocSeize size page
  else if v = tokResetEst then .wrLocResetEst size page
  else .wrLocOther size page v

/-- Rows 8 to 10: Control Request. -/
def decodeCtrlReq (size : Size) (page : Page) (v : Word) : Instr :=
  if v = tokCmdReady then .wrReqCmdReady size page
  else if v = tokGoIdle then .wrReqGoIdle size page
  else .wrReqOther size page v

/-- Rows 11 and 12: Control Cancel. -/
def decodeCtrlCancel (size : Size) (page : Page) (v : Word) : Instr :=
  if v = tokCancel then .wrCancelCancel size page else .wrCancelOther size page v

/-- Rows 13 and 14: Control Start. -/
def decodeCtrlStart (size : Size) (page : Page) (v : Word) : Instr :=
  if v = tokInvoke then .wrStartInvoke size page else .wrStartOther size page v

/-- Rows 3 to 16: a bus write, decoded by its exact page offset and its zero-extended value (30 R106). -/
def decodeWrite (size : Size) (page : Page) (off : Offset) (v : Word) : Instr :=
  if off = offLocCtrl then decodeLocCtrl size page v
  else if off = offCtrlReq then decodeCtrlReq size page v
  else if off = offCtrlCancel then decodeCtrlCancel size page v
  else if off = offCtrlStart then decodeCtrlStart size page v
  else if isRegOffset off then .wrRegNoEffect size page off v
  else .wrBuf size page off v

/-- Rows 18 and 19: a completion. -/
def decodeDone (st : Word) : Instr :=
  if st = 0#32 then .beDoneOk else .beDoneFail st

/-- The row of a word that passed the checks (30 R108); OP 7 to 15 and SIZE 3 are refused by name here too. -/
def decodeRow (t : TxWord) : Except WfCheck Instr :=
  match sizeOfCode (txSize t) with
  | none => .error .size
  | some size =>
    match (txOp t).toNat with
    | 0 => .ok (decodeRead size (txPage t) (txOff t))
    | 1 => .ok (decodeWrite size (txPage t) (txOff t) (txData t))
    | 2 => .ok (.beWr (txOff t) ((txData t).extractLsb' 0 8))
    | 3 => .ok (decodeDone (txData t))
    | 4 => .ok .hostReset
    | 5 => .ok .hostSave
    | 6 => .ok .hostRestore
    | _ => .error .op

/-- The decoder: the checks of 30 R104, then the first matching row of R108. Total on every 64-bit word. -/
def decode (t : TxWord) : Except WfCheck Instr :=
  match checkWord t with
  | some c => .error c
  | none => decodeRow t

/-- A transaction word from its fields (30 R101): `DATA || OP || SIZE || RSVD = 0 || PAGE || OFF`. -/
def pack (data : Word) (op : BitVec 4) (size : BitVec 2) (page : Page) (off : Offset) : TxWord :=
  data ++ op ++ size ++ 0#11 ++ page ++ off

/-- The word of a bus read. -/
def packRead (size : Size) (page : Page) (off : Offset) : TxWord := pack 0#32 0#4 (sizeCode size) page off

/-- The word of a bus write (30 R112). -/
def packWrite (size : Size) (page : Page) (off : Offset) (v : Word) : TxWord := pack v 1#4 (sizeCode size) page off

/-- The word of an instruction, written from the rows of 30 R108. -/
def encode : Instr → TxWord
  | .rdReg size page off => packRead size page off
  | .rdBuf size page off => packRead size page off
  | .wrLocRequest size page => packWrite size page offLocCtrl tokRequestAccess
  | .wrLocRelinquish size page => packWrite size page offLocCtrl tokRelinquish
  | .wrLocSeize size page => packWrite size page offLocCtrl tokSeize
  | .wrLocResetEst size page => packWrite size page offLocCtrl tokResetEst
  | .wrLocOther size page v => packWrite size page offLocCtrl v
  | .wrReqCmdReady size page => packWrite size page offCtrlReq tokCmdReady
  | .wrReqGoIdle size page => packWrite size page offCtrlReq tokGoIdle
  | .wrReqOther size page v => packWrite size page offCtrlReq v
  | .wrCancelCancel size page => packWrite size page offCtrlCancel tokCancel
  | .wrCancelOther size page v => packWrite size page offCtrlCancel v
  | .wrStartInvoke size page => packWrite size page offCtrlStart tokInvoke
  | .wrStartOther size page v => packWrite size page offCtrlStart v
  | .wrRegNoEffect size page off v => packWrite size page off v
  | .wrBuf size page off v => packWrite size page off v
  | .beWr index byte => pack (byte.setWidth 32) 2#4 0#2 0#3 index
  | .beDoneOk => pack 0#32 3#4 0#2 0#3 0#12
  | .beDoneFail st => pack st 3#4 0#2 0#3 0#12
  | .hostReset => pack 0#32 4#4 0#2 0#3 0#12
  | .hostSave => pack 0#32 5#4 0#2 0#3 0#12
  | .hostRestore => pack 0#32 6#4 0#2 0#3 0#12

/-- The agent whose transaction this is (00 R7, 30 R100). -/
def agentOf : Instr → Agent
  | .rdReg .. => .bus
  | .rdBuf .. => .bus
  | .wrLocRequest .. => .bus
  | .wrLocRelinquish .. => .bus
  | .wrLocSeize .. => .bus
  | .wrLocResetEst .. => .bus
  | .wrLocOther .. => .bus
  | .wrReqCmdReady .. => .bus
  | .wrReqGoIdle .. => .bus
  | .wrReqOther .. => .bus
  | .wrCancelCancel .. => .bus
  | .wrCancelOther .. => .bus
  | .wrStartInvoke .. => .bus
  | .wrStartOther .. => .bus
  | .wrRegNoEffect .. => .bus
  | .wrBuf .. => .bus
  | .beWr .. => .backend
  | .beDoneOk => .backend
  | .beDoneFail .. => .backend
  | .hostReset => .host
  | .hostSave => .host
  | .hostRestore => .host

/-- The window address of a bus access (20 R71, 30 R105): `a = PAGE || OFF`, 15 bits. -/
def windowAddr (page : Page) (off : Offset) : BitVec 15 := page ++ off

/-- The page of a window address (20 R71): `a[14:12]`. -/
def windowPage (a : BitVec 15) : Page := a.extractLsb' 12 3

/-- The page offset of a window address (20 R71): `a[11:0]`. -/
def windowOff (a : BitVec 15) : Offset := a.extractLsb' 0 12

/-- The instruction whose table word has the low `nbits` bits of `w` and zeros above (the host's numbering is the word's own).
The first matching row wins (30 R108), so the match value of a row can decode to an earlier one (notes/assumptions/13). -/
def decodeTableWord (nbits w : Nat) : Option Instr :=
  let v := w % 2 ^ nbits
  if v < 2 ^ 64 then
    match decode (BitVec.ofNat 64 v) with
    | .ok i => some i
    | .error _ => none
  else none

end Sys2Proof
end

