-- ==== Sys2Proof/Machine/Memory.lean ====
section
/-! DEFINITION. The bytes of the data buffer as plain data: a list of (index, byte) cells in one canonical form
(indices strictly rising, no zero byte listed), an unlisted byte reading 0 as after reset (spec/10_state.md R40);
byte order of multi-byte accesses (spec/20_memory.md R75). -/

namespace Sys2Proof.Machine

/-- Byte `i`; an unlisted byte is 0, the reset contents (10 R40, 44 R220). -/
def readByte : List Host.Cell → Nat → Byte
  | [], _ => 0#8
  | (k, b) :: m, i => if k = i then b else readByte m i

/-- Write byte `i`, keeping the canonical form: writing 0 removes the cell. -/
def writeByte : List Host.Cell → Nat → Byte → List Host.Cell
  | [], i, b => if b = 0#8 then [] else [(i, b)]
  | (k, c) :: m, i, b =>
    if i < k then (if b = 0#8 then (k, c) :: m else (i, b) :: (k, c) :: m)
    else if i = k then (if b = 0#8 then m else (i, b) :: m)
    else (k, c) :: writeByte m i b

/-- The canonical form: indices strictly rising, no cell holding the byte an unlisted index reads as. -/
def memWf : List Host.Cell → Bool
  | [] => true
  | (k, b) :: m => b != 0#8 && m.all (fun c => decide (k < c.1)) && memWf m

/-- Every listed index is below `n`. -/
def memBelow (m : List Host.Cell) (n : Nat) : Bool := m.all (fun c => decide (c.1 < n))

/-- Byte `k` of a register or bus value: bits `8k+7 : 8k` (20 R73, R75). -/
def byteLane (v : Word) (k : Nat) : Byte := v.extractLsb' (8 * k) 8

/-- Store the low `n` bytes of `v` at index `i`, least significant byte first (20 R75). -/
def writeLE (m : List Host.Cell) (i n : Nat) (v : Word) : List Host.Cell :=
  (List.range n).foldl (fun m k => writeByte m (i + k) (byteLane v k)) m

/-- Read `n` bytes at index `i`, least significant byte first (20 R75): the sum of `buf[i+k] << 8k`. -/
def readLE (m : List Host.Cell) (i n : Nat) : Word :=
  (List.range n).foldl (fun acc k => acc + ((readByte m (i + k)).setWidth 32 <<< (8 * k))) 0#32

/-- The bytes `i .. i+n-1` in order. -/
def readRange (m : List Host.Cell) (i n : Nat) : List Byte := (List.range n).map (fun k => readByte m (i + k))

end Sys2Proof.Machine
end

