-- ==== Sys2Proof/Config.lean ====
section
/-! DEFINITION. What an implementation fixes (spec/00_scope.md R9) and the free values of the spec. -/

namespace Sys2Proof

/-- Which command-header length function `cmdLenOf` the backend has (00 R9, 42 R177, D12).
DESIGN CHOICE (notes/assumptions/4): the function itself is named by plain data, so that a configuration can be compared. -/
inductive CmdLenFormat where
  /-- The default of R177: the 32-bit field at buffer bytes 2 to 5, most significant byte first. -/
  | tpmHeader
  /-- A backend's own function, number `id`: nothing constrains it (`Config.backendCmdLen`). `leastMax` is the bound on
  `BE_MAX` that is stated with the function (44 R221; notes/assumptions/15). -/
  | backend (id : Nat) (leastMax : Nat)
deriving DecidableEq, Repr

/-- The parameters of one device instance, fixed for its life (00 R9). -/
structure Config where
  /-- `BE_MAX`, the backend's `max_buffer_size()`. -/
  beMax : Nat
  /-- `BASE_ADDR`, the base address given to reset. -/
  baseAddr : BitVec 64
  /-- `INTF_ID_VALUE`. -/
  intfIdValue : Word
  /-- `INTF_ID2_VALUE`. -/
  intfId2Value : Word
  /-- `cmdLenOf`. -/
  cmdLen : CmdLenFormat
deriving DecidableEq, Repr

/-- FREE VALUE (42 R177, D12; notes/assumptions/4): the length that backend `id`'s header format gives a buffer.
No body: a statement about it holds for every function. -/
opaque Config.backendCmdLen : Nat → List Byte → Word

/-- FREE VALUE (44 R220, R223, 93 I3; notes/assumptions/5): the result of draw number `k` of the backend's startup.
No body: a statement about it holds for every sequence of results. -/
opaque Config.startupDraw : Nat → Bool

end Sys2Proof
end

