-- ==== Sys2Proof/Machine/Registers.lean ====
section
/-! DEFINITION. The register file (spec/10_state.md R22 to R37) and its reset values (R24 to R37, spec/44_reset_persistence.md R220 to R222). -/

namespace Sys2Proof.Machine

/-- The stored registers and flags (10 R22). Registers that store nothing have no field (R26, R30, R32, R38). -/
structure Regs where
  /-- Locality State bit 0 (R24) -/
  tpmEstablished : Bool
  /-- Locality State bit 1 (R24) -/
  locAssigned : Bool
  /-- Locality State bits 4:2 (R24) -/
  activeLocality : BitVec 3
  /-- Locality State bit 7 (R24) -/
  tpmRegValidSts : Bool
  /-- Locality Status bit 0 (R27) -/
  granted : Bool
  /-- Locality Status bit 1 (R27) -/
  beenSeized : Bool
  /-- Interface ID (R28) -/
  intfId : Word
  /-- Interface ID 2 (R29) -/
  intfId2 : Word
  /-- Control Status bit 0, the fatal-error latch (R31) -/
  tpmSts : Bool
  /-- Control Status bit 1 (R31) -/
  tpmIdle : Bool
  /-- Control Start bit 0 (R33) -/
  start : Bool
  /-- Command Size (R34) -/
  cmdSize : Word
  /-- Command Address low (R35) -/
  cmdAddrLow : Word
  /-- Command Address high (R35) -/
  cmdAddrHigh : Word
  /-- Response Size (R36) -/
  rspSize : Word
  /-- Response Address low (R37) -/
  rspAddrLow : Word
  /-- Response Address high (R37) -/
  rspAddrHigh : Word
deriving DecidableEq, Repr

/-- The negotiated size `N = min(BE_MAX, ARCH_MAX)` (44 R221). -/
def negotiated (cfg : Config) : Nat := min cfg.beMax archMax

/-- The least `BE_MAX` a reset accepts (44 R221): the floor of 00 R9, and with a backend's own `cmdLenOf` that function's bound too.
DEDUCED (notes/assumptions/15): a bound below the floor does not lower it. -/
def minBeMax (cfg : Config) : Nat :=
  match cfg.cmdLen with
  | .tpmHeader => beMaxFloor
  | .backend _ leastMax => max beMaxFloor leastMax

/-- The configurations whose reset is not refused with `CONFIG_BE_MAX` (44 R221). -/
abbrev accepted (cfg : Config) : Prop := minBeMax cfg ≤ cfg.beMax

/-- The guest address of the data buffer, `(BASE_ADDR + BUF_OFF) mod 2^64` (44 R222). -/
def bufferAddr (cfg : Config) : BitVec 64 := cfg.baseAddr + BitVec.ofNat 64 bufOff

/-- Step 2 of reset: "Zero the entire register file" (44 R220). -/
def zeroRegs : Regs :=
  { tpmEstablished := false, locAssigned := false, activeLocality := 0#3, tpmRegValidSts := false,
    granted := false, beenSeized := false, intfId := 0#32, intfId2 := 0#32,
    tpmSts := false, tpmIdle := false, start := false,
    cmdSize := 0#32, cmdAddrLow := 0#32, cmdAddrHigh := 0#32,
    rspSize := 0#32, rspAddrLow := 0#32, rspAddrHigh := 0#32 }

/-- Step 3 of reset: identification, the asserted status bits, and `tpmIdle` (44 R220, 90 C13). -/
def identify (cfg : Config) (r : Regs) : Regs :=
  { r with intfId := cfg.intfIdValue, intfId2 := cfg.intfId2Value,
           tpmEstablished := true, tpmRegValidSts := true, tpmIdle := true }

/-- `geometry(s)` (44 R222): sizes and addresses of the one shared buffer. -/
def geometry (cfg : Config) (r : Regs) : Regs :=
  { r with cmdSize := BitVec.ofNat 32 (negotiated cfg), rspSize := BitVec.ofNat 32 (negotiated cfg),
           cmdAddrLow := (bufferAddr cfg).extractLsb' 0 32, cmdAddrHigh := (bufferAddr cfg).extractLsb' 32 32,
           rspAddrLow := (bufferAddr cfg).extractLsb' 0 32, rspAddrHigh := (bufferAddr cfg).extractLsb' 32 32 }

/-- The register file after steps 2 to 4 of reset (44 R220). -/
def resetRegs (cfg : Config) : Regs := geometry cfg (identify cfg zeroRegs)

/-- DESIGN CHOICE (notes/assumptions/3): the configuration of `State.reset`, CFG0 of spec/95_test_vectors.md: the source's
scenario base address and negotiated size, the identification values 10 R28 and R29 suggest, the default header format. -/
def scenarioConfig : Config :=
  { beMax := 0x1000, baseAddr := 0xFED44000#64, intfIdValue := 0x00025811#32, intfId2Value := 0x00001014#32,
    cmdLen := .tpmHeader }

end Sys2Proof.Machine
end

