-- ==== Sys2Proof/Machine/State.lean ====
section
/-! DEFINITION. The device state (spec/10_state.md R22), the records it holds, the fault codes (spec/60_exceptions.md R250),
the refusal reasons (R258), and the launch state (spec/70_reset_and_hazards.md R280). -/

namespace Sys2Proof.Machine

/-- The three fault codes of 60 R250. A step that raises one ENTERS it as R253 says, in a next state with the fault recorded
in `State.faults`; no meaning answers `Host.Outcome.fault` (notes/assumptions/2). Safe: a recorded fault refutes `clean` (70 R292). -/
inductive Fault where
  /-- `FLT_ACCESS`, code 1: raised by every bus read and write with `PAGE >= LOC_PAGES` or `OFF mod n != 0` (40 R130). Safe. -/
  | access
  /-- `FLT_OVERRUN`, code 2: raised by buffer reads and writes past `s.n` (40 R130). Safe. -/
  | overrun
  /-- `FLT_TERMINATED`, code 3: raised by HOST.RESET and HOST.RESTORE when the backend's startup fails (44 R223). Safe. -/
  | terminated
deriving DecidableEq, Repr

/-- The refusal reasons of 60 R258. A refused transaction sets `State.refused` in a next state, as R258 says
(notes/assumptions/2). Safe: a refusal refutes `clean` (70 R292). -/
inductive Refusal where
  /-- `WF_*`: raised by the step on a word that fails a check of 30 R104. Safe. -/
  | illFormed (check : WfCheck)
  /-- `CONFIG_BE_MAX`: raised by HOST.RESET and HOST.RESTORE when `BE_MAX` is below the configuration's bound (44 R221). Safe. -/
  | configBeMax
  /-- `RESTORE_SNAPSHOT`: raised by HOST.RESTORE on an inadmissible snapshot (44 R227), or none (notes/assumptions/16). Safe. -/
  | restoreSnapshot
  /-- An instruction without a meaning: the only reason that `Host.Outcome.refused` could carry; no arm of `exec` uses it. Safe. -/
  | notModelled (mnemonic : String)
deriving DecidableEq, Repr

/-- A fault record `(code, T)` (60 R253). -/
structure FaultRecord where
  code : Fault
  word : TxWord
deriving DecidableEq, Repr

/-- The in-flight request (10 R41). -/
structure Request where
  /-- input length, `min(declared, n)` (42 R177) -/
  inLen : Nat
  /-- output capacity -/
  outCap : Nat
  /-- page of the INVOKE write that created it -/
  locality : Page
  /-- a cancel has been forwarded -/
  cancelReq : Bool
  /-- a bus write hit bytes `0 .. inLen-1` while pending -/
  inRaced : Bool
deriving DecidableEq, Repr

/-- A byte string of length `len` in the canonical sparse form of the data buffer (notes/assumptions/7). -/
structure Bytes where
  len : Nat
  cells : List Host.Cell
deriving DecidableEq, Repr

/-- A snapshot (44 R225): the word view at offsets 0x00, 0x04, ..., 0x7C, the buffer, and the negotiated size. -/
structure Snapshot where
  words : List Word
  bytes : Bytes
  n : Nat
deriving DecidableEq, Repr

/-- Direction of a bus access. -/
inductive AccessKind where
  | read | write
deriving DecidableEq, Repr

/-- The events of the history (10 R44). -/
inductive Event where
  /-- a bus access, with the data written or returned -/
  | bus (kind : AccessKind) (page : Page) (off : Offset) (size : Size) (value : Word)
  /-- a request handed to the backend, with the command bytes at dispatch -/
  | submit (inLen outCap : Nat) (bytes : List Byte)
  /-- a cancellation forwarded to the backend -/
  | cancelFwd
  /-- a backend buffer write -/
  | beWrite (index : Nat) (byte : Byte)
  /-- a completion -/
  | complete (status : Word)
  /-- the backend-level reset -/
  | beReset
  /-- the backend's startup with size `n` and its result -/
  | startup (n : Nat) (ok : Bool)
  | save
  | restore
  | fault (code : Fault) (word : TxWord)
  | refuse (reason : Refusal)
deriving DecidableEq, Repr

/-- What the agent of the last transaction got back: the outcome of the step (00 R12). The model's own (notes/assumptions/2). -/
inductive Reply where
  /-- no transaction yet -/
  | nothing
  /-- completed without a value; a write that was ignored too (70 R284) -/
  | done
  /-- the value of a bus read of this size, zero-extended -/
  | data (size : Size) (value : Word)
  /-- the snapshot of a save -/
  | snapshot (snap : Snapshot)
  /-- ended in a fault; a read returned no value (60 R253) -/
  | faulted (code : Fault)
  /-- refused (60 R258) -/
  | refused (reason : Refusal)
  /-- not enabled (60 R259): no step was taken -/
  | held
deriving DecidableEq, Repr

/-- A transaction that an agent offers: its word and what stands beside the word (30 R101; notes/assumptions/1). -/
structure Offer where
  word : TxWord
  /-- the snapshot operand of HOST.RESTORE -/
  snap : Option Snapshot
  /-- the backend's startup result that labels this step; none leaves it a free draw (notes/assumptions/5) -/
  startup : Option Bool
deriving DecidableEq, Repr

/-- The machine: the fields of 10 R22, the configuration of 00 R9, and the model's own fields. -/
structure State where
  /-- configuration, fixed for the life of the device (00 R9) -/
  cfg : Config
  /-- registers and flags (10 R22 to R37) -/
  regs : Regs
  /-- data buffer (10 R40) -/
  buf : List Host.Cell
  /-- negotiated size (10 R42) -/
  n : Nat
  /-- in-flight request slot (10 R41) -/
  pending : Option Request
  /-- fault record (10 R43) -/
  faults : List FaultRecord
  /-- device terminated (10 R43) -/
  terminated : Bool
  /-- refusal mark (10 R43) -/
  refused : Bool
  /-- event history (10 R44) -/
  hist : List Event
  /-- MODEL: the transactions the agents offer, in the order in which they are tried -/
  offers : List Offer
  /-- MODEL: the snapshot operand beside the current word -/
  snapArg : Option Snapshot
  /-- MODEL: the startup result beside the current word -/
  startupArg : Option Bool
  /-- MODEL: how many free startup draws were taken -/
  draws : Nat
  /-- MODEL: what the last transaction's agent got back -/
  reply : Reply
deriving DecidableEq, Repr

/-- The launch state `init(cfg)` (70 R280): the state a successful HOST.RESET gives, with empty bookkeeping.
DESIGN CHOICE (notes/assumptions/17): the spec gives `init` only to an accepted configuration, since R221 refuses the reset of any
other; the function is total all the same, and its value there is no launch state: `Safety.Reachable` and `Safety.isLaunch` ask
for `accepted cfg`. -/
def State.init (cfg : Config) : State :=
  { cfg := cfg, regs := resetRegs cfg, buf := [], n := negotiated cfg, pending := none,
    faults := [], terminated := false, refused := false,
    hist := [.beReset, .startup (negotiated cfg) true],
    offers := [], snapArg := none, startupArg := none, draws := 0, reply := .nothing }

/-- The state right after reset: `init` of the configuration that notes/assumptions/3 names. -/
def State.reset : State := State.init scenarioConfig

end Sys2Proof.Machine
end

