-- ==== Sys2Proof/Machine/Flags.lean ====
section
/-! DEFINITION. Every view computed from the stored fields: the register words (spec/10_state.md R23 to R38), the
active-locality getter (R25) and the interface state (R46). -/

namespace Sys2Proof.Machine

/-- Locality State (10 R23, R24): bit 0 tpmEstablished, bit 1 locAssigned, bits 4:2 activeLocality, bit 7 tpmRegValidSts. -/
def locStateWord (r : Regs) : Word :=
  0#24 ++ BitVec.ofBool r.tpmRegValidSts ++ 0#2 ++ r.activeLocality ++ BitVec.ofBool r.locAssigned
    ++ BitVec.ofBool r.tpmEstablished

/-- Locality Status (10 R27): bit 0 Granted, bit 1 beenSeized. -/
def locStsWord (r : Regs) : Word := 0#30 ++ BitVec.ofBool r.beenSeized ++ BitVec.ofBool r.granted

/-- Control Status (10 R31): bit 0 tpmSts, bit 1 tpmIdle. -/
def ctrlStsWord (r : Regs) : Word := 0#30 ++ BitVec.ofBool r.tpmIdle ++ BitVec.ofBool r.tpmSts

/-- Control Start (10 R33): bit 0 start. -/
def ctrlStartWord (r : Regs) : Word := 0#31 ++ BitVec.ofBool r.start

/-- The word view `word(off)` at a 4-aligned offset of the register area (10 R23). Locality Control, Control Request,
Control Cancel and every reserved offset read 0 (R26, R30, R32, R38). -/
def wordAt (r : Regs) (off : Offset) : Word :=
  if off = offLocState then locStateWord r
  else if off = offLocSts then locStsWord r
  else if off = offIntfId then r.intfId
  else if off = offIntfId2 then r.intfId2
  else if off = offCtrlSts then ctrlStsWord r
  else if off = offCtrlStart then ctrlStartWord r
  else if off = offCmdSize then r.cmdSize
  else if off = offCmdLaddr then r.cmdAddrLow
  else if off = offCmdHaddr then r.cmdAddrHigh
  else if off = offRspSize then r.rspSize
  else if off = offRspAddrLow then r.rspAddrLow
  else if off = offRspAddrHigh then r.rspAddrHigh
  else 0#32

/-- A register read of `size` at `off` (20 R74, 40 R131): the lanes of the containing word, least significant first. -/
def readLanes (r : Regs) (size : Size) (off : Offset) : Word :=
  let w := wordAt r (off &&& ~~~3#12)
  let k := (off &&& 3#12).toNat
  ((w >>> (8 * k)).extractLsb' 0 (8 * sizeBytes size)).setWidth 32

/-- The active-locality getter (10 R25): none is `NO_LOCALITY`, which equals no page. -/
def activeLoc (r : Regs) : Option Page := if r.locAssigned then some r.activeLocality else none

/-- The interface states (10 R46). -/
inductive IfState where
  | terminated | busy | idle | ready
deriving DecidableEq, Repr

/-- The interface state, a function of the fields (10 R46). -/
def ifState (s : State) : IfState :=
  if s.terminated then .terminated
  else if s.regs.start then .busy
  else if s.regs.tpmIdle then .idle
  else .ready

/-- The 32 words of a snapshot (44 R224): `words[j] = word(4j)`. -/
def snapshotWords (r : Regs) : List Word := (List.range 32).map (fun j => wordAt r (BitVec.ofNat 12 (4 * j)))

end Sys2Proof.Machine
end

