-- ==== Sys2Proof/Machine/Operands.lean ====
section
/-! DEFINITION. The operand forms: where a bus access goes and whether the device accepts it (spec/40_register_file.md R130,
spec/20_memory.md R71, R72, R76), the buffer index of an offset, and the declared command length (spec/42_command_dispatcher.md R177). -/

namespace Sys2Proof.Machine

/-- The three verdicts of the access check. -/
inductive Access where
  | ok
  | held
  | fault (code : Fault)
deriving DecidableEq, Repr

/-- The buffer index of a page offset (20 R72): `off - 0x80`. -/
def bufIndex (off : Offset) : Nat := off.toNat - bufOff

/-- `AccessCheck(T)` (40 R130), in its order: termination, page, alignment, buffer bounds. -/
def accessCheck (s : State) (size : Size) (page : Page) (off : Offset) : Access :=
  if s.terminated then .held
  else if page.toNat ≥ locPages then .fault .access
  else if off.toNat % sizeBytes size ≠ 0 then .fault .access
  else if bufOff ≤ off.toNat ∧ s.n < bufIndex off + sizeBytes size then .fault .overrun
  else .ok

/-- The default `cmdLenOf` (42 R177): bytes 2 to 5, most significant first. -/
def tpmHeaderLen (buf : List Host.Cell) : Word :=
  readByte buf 2 ++ readByte buf 3 ++ readByte buf 4 ++ readByte buf 5

/-- `cmdLenOf(s.buf)` of the configuration (00 R9, 42 R177). -/
def cmdLenOf (cfg : Config) (buf : List Host.Cell) (n : Nat) : Word :=
  match cfg.cmdLen with
  | .tpmHeader => tpmHeaderLen buf
  | .backend id _ => Config.backendCmdLen id (readRange buf 0 n)

/-- The command length of an accepted INVOKE (42 R177): `min(declared, n)`. -/
def commandLen (s : State) : Nat := min (cmdLenOf s.cfg s.buf s.n).toNat s.n

/-- The result of the backend's startup in this step (44 R220): the offer's label, else a free draw (notes/assumptions/5). -/
def startupResult (s : State) : Bool :=
  match s.startupArg with
  | some ok => ok
  | none => Config.startupDraw s.draws

/-- The snapshot of a state (44 R224, R225). -/
def takeSnapshot (s : State) : Snapshot :=
  { words := snapshotWords s.regs, bytes := { len := s.n, cells := s.buf }, n := s.n }

/-- Word `j` of a snapshot. -/
def snapWord (snap : Snapshot) (j : Nat) : Word := snap.words.getD j 0#32

/-- Admissibility of a snapshot under a configuration (44 R227). The byte string is one at all only in canonical form,
with no cell past its length (notes/assumptions/7). -/
def admissible (cfg : Config) (snap : Snapshot) : Bool :=
  decide (snap.n = negotiated cfg)
  && decide (snap.bytes.len = snap.n) && memWf snap.bytes.cells && memBelow snap.bytes.cells snap.bytes.len
  && decide (snap.words.length = 32)
  && (snapWord snap 0 == 0x81#32 || snapWord snap 0 == 0x83#32)
  && snapWord snap 3 == ((snapWord snap 0 >>> 1) &&& 1#32)
  && decide ((snapWord snap 17).toNat ≤ 3)
  && snapWord snap 19 == 0#32
  && (List.range 32).all (fun j =>
      j == 0 || j == 3 || j == 17 || j == 19
        || snapWord snap j == wordAt (resetRegs cfg) (BitVec.ofNat 12 (4 * j)))

end Sys2Proof.Machine
end

