-- ==== Sys2Proof/Machine/Ops.lean ====
section
/-! DEFINITION. The named operations over the state that every meaning is built from: events, replies, entering a fault
(spec/60_exceptions.md R253), refusing (R258), holding (R259), the shell of a bus transaction (spec/40_register_file.md R130)
and the device reset (spec/44_reset_persistence.md R220). -/

namespace Sys2Proof.Machine

/-! Updates of one field each. -/
def State.setRegs (s : State) (r : Regs) : State := { s with regs := r }
def State.setBuf (s : State) (m : List Host.Cell) : State := { s with buf := m }
def State.setPending (s : State) (p : Option Request) : State := { s with pending := p }
def State.setReply (s : State) (r : Reply) : State := { s with reply := r }

/-- `emit E` (00 R11): append an event to the history. -/
def State.emit (s : State) (e : Event) : State := { s with hist := s.hist ++ [e] }

/-- Fault entry, the one way a fault is taken (60 R253): the state `s` given is the one the step began with (its writes are
discarded), the record and the event are appended, a read returns no value. There is no handler and no return (R254). -/
def State.raise (s : State) (code : Fault) (t : TxWord) : State :=
  { s with faults := s.faults ++ [⟨code, t⟩], hist := s.hist ++ [.fault code t], reply := .faulted code }

/-- `refuse(reason)` (60 R258). -/
def State.refuse (s : State) (reason : Refusal) : State :=
  { s with refused := true, hist := s.hist ++ [.refuse reason], reply := .refused reason }

/-- `hold` (60 R259): the transaction is not enabled; nothing changes but what its agent is told. -/
def State.hold (s : State) : State := { s with reply := .held }

/-- The shell of every bus transaction (40 R130): the access check decides between hold, fault and the rule's own effect.
`t` is the transaction word, recorded by a fault. -/
def busTx (t : TxWord) (size : Size) (page : Page) (off : Offset) (s : State) (effect : State) :
    Host.Outcome State Fault Refusal :=
  match accessCheck s size page off with
  | .held => .next s.hold
  | .fault code => .next (s.raise code t)
  | .ok => .next effect

/-- A completed bus write (10 R44): its `Bus` event, and no value. -/
def State.wrote (s : State) (size : Size) (page : Page) (off : Offset) (v : Word) : State :=
  (s.emit (.bus .write page off size v)).setReply .done

/-- A completed bus read: its `Bus` event, and the value. -/
def State.readBack (s : State) (size : Size) (page : Page) (off : Offset) (v : Word) : State :=
  (s.emit (.bus .read page off size v)).setReply (.data size v)

/-- A bus write with no effect (40 R134 `ignore`): only its event. -/
def ignoredWrite (t : TxWord) (size : Size) (page : Page) (off : Offset) (v : Word) (s : State) :
    Host.Outcome State Fault Refusal :=
  busTx t size page off s (s.wrote size page off v)

/-- Steps 1 to 4 of reset and the startup call (44 R220 from `emit BeReset` on, R221, R222), with startup result `ok`.
The writes stand even when startup fails (60 R253). A startup that was a free draw uses up one draw. -/
def State.resetDevice (s : State) (ok : Bool) : State :=
  { s with
    regs := resetRegs s.cfg
    n := negotiated s.cfg
    buf := []
    hist := s.hist ++ [.beReset, .startup (negotiated s.cfg) ok]
    draws := if s.startupArg = none then s.draws + 1 else s.draws
    reply := .done }

/-- `startup_failed(s)` (44 R223): the device terminates and the fault is entered; the reset's writes stand. -/
def State.startupFailed (s : State) (t : TxWord) : State :=
  State.raise { s with terminated := true } .terminated t

/-- The reset with the startup result of this step: `FLT_TERMINATED` when startup fails, else `after` applied to the
state the reset gives (44 R220, R223, R226). A configuration with `BE_MAX` below its bound is refused (R221). -/
def resetTx (t : TxWord) (s : State) (after : State → State) : State :=
  if ¬ accepted s.cfg then s.refuse .configBeMax
  else if startupResult s then after (s.resetDevice true)
  else (s.resetDevice false).startupFailed t

/-- The step takes the first offer: its operands come to stand beside the word (30 R101; notes/assumptions/1). -/
def State.takeOffer (s : State) (o : Offer) (rest : List Offer) : State :=
  { s with offers := rest, snapArg := o.snap, startupArg := o.startup }

end Sys2Proof.Machine
end

