-- ==== Sys2Proof/Machine/CommandDispatcher.lean ====
section
/-! DEFINITION. The Command Dispatcher and the idle/ready control (spec/42_command_dispatcher.md): every write to Control
Request, Control Cancel and Control Start. -/

namespace Sys2Proof.Machine

/-- CMD_READY (42 R170): clears `tpmIdle`, in every state and from every page. -/
def execWrReqCmdReady (size : Size) (page : Page) (s : State) : Host.Outcome State Fault Refusal :=
  busTx (encode (.wrReqCmdReady size page)) size page offCtrlReq s
    ((s.setRegs { s.regs with tpmIdle := false }).wrote size page offCtrlReq tokCmdReady)

/-- GO_IDLE (42 R171, 90 C12): sets `tpmIdle`, while busy too. -/
def execWrReqGoIdle (size : Size) (page : Page) (s : State) : Host.Outcome State Fault Refusal :=
  busTx (encode (.wrReqGoIdle size page)) size page offCtrlReq s
    ((s.setRegs { s.regs with tpmIdle := true }).wrote size page offCtrlReq tokGoIdle)

/-- Any other value written to Control Request (42 R172). -/
def execWrReqOther (size : Size) (page : Page) (value : Word) (s : State) : Host.Outcome State Fault Refusal :=
  ignoredWrite (encode (.wrReqOther size page value)) size page offCtrlReq value s

/-- Forward a cancellation to the backend (42 R173): the request is marked, `start` stays.
With no request (a state no run reaches, notes/assumptions/9) only the event is emitted. -/
def State.forwardCancel (s : State) : State :=
  (s.setPending (s.pending.map (fun r => { r with cancelReq := true }))).emit .cancelFwd

/-- CANCEL (42 R173): forwarded while `start = 1`, from any page (90 C1); else ignored. -/
def execWrCancelCancel (size : Size) (page : Page) (s : State) : Host.Outcome State Fault Refusal :=
  busTx (encode (.wrCancelCancel size page)) size page offCtrlCancel s
    (if s.regs.start then (s.wrote size page offCtrlCancel tokCancel).forwardCancel
     else s.wrote size page offCtrlCancel tokCancel)

/-- Any other value written to Control Cancel (42 R174). -/
def execWrCancelOther (size : Size) (page : Page) (value : Word) (s : State) : Host.Outcome State Fault Refusal :=
  ignoredWrite (encode (.wrCancelOther size page value)) size page offCtrlCancel value s

/-- The request descriptor of an accepted INVOKE from `page` (42 R175, 30 R114). -/
def newRequest (s : State) (page : Page) : Request :=
  { inLen := commandLen s, outCap := s.n, locality := page, cancelReq := false, inRaced := false }

/-- Hand the buffer to the backend (42 R175): set `start`, create the request, record the dispatch-time bytes (20 R83). -/
def State.submitCommand (s : State) (page : Page) : State :=
  ((s.setRegs { s.regs with start := true }).setPending (some (newRequest s page))).emit
    (.submit (commandLen s) s.n (readRange s.buf 0 (commandLen s)))

/-- INVOKE (42 R175): accepted when no request is pending and the page is the active locality; else silently ignored.
Neither `tpmIdle` nor `tpmSts` is a precondition (90 C7, D32). -/
def execWrStartInvoke (size : Size) (page : Page) (s : State) : Host.Outcome State Fault Refusal :=
  busTx (encode (.wrStartInvoke size page)) size page offCtrlStart s
    (if s.regs.start then s.wrote size page offCtrlStart tokInvoke
     else if activeLoc s.regs ≠ some page then s.wrote size page offCtrlStart tokInvoke
     else (s.wrote size page offCtrlStart tokInvoke).submitCommand page)

/-- Any other value written to Control Start (42 R176, 90 C9): `start` is not cleared. -/
def execWrStartOther (size : Size) (page : Page) (value : Word) (s : State) : Host.Outcome State Fault Refusal :=
  ignoredWrite (encode (.wrStartOther size page value)) size page offCtrlStart value s

end Sys2Proof.Machine
end

