-- ==== Sys2Proof/Machine/Completion.lean ====
section
/-! DEFINITION. The backend's steps (spec/43_completion.md): response bytes and the completion callback. What the backend
never does has no step: the transaction is held (R204). -/

namespace Sys2Proof.Machine

/-- BE.WR (43 R200): one response byte below the request's output capacity. -/
def execBeWr (index : Offset) (byte : Byte) (s : State) : Host.Outcome State Fault Refusal :=
  .next (if s.terminated then s.hold
    else match s.pending with
      | none => s.hold
      | some r =>
        if r.outCap ≤ index.toNat then s.hold
        else ((s.setBuf (writeByte s.buf index.toNat byte)).emit (.beWrite index.toNat byte)).setReply .done)

/-- The Completion Handler (43 R201 to R203): `start` cleared, `tpmSts` latched on failure, the request destroyed,
nothing else touched. -/
def State.complete (s : State) (status : Word) (latch : Bool) : State :=
  (((s.setRegs { s.regs with start := false, tpmSts := latch || s.regs.tpmSts }).setPending none).emit
    (.complete status)).setReply .done

/-- A completion happens exactly once per accepted start: held when nothing is pending (43 R201, R202). -/
def completionTx (s : State) (status : Word) (latch : Bool) : Host.Outcome State Fault Refusal :=
  .next (if s.terminated then s.hold
    else if s.pending = none then s.hold
    else s.complete status latch)

/-- BE.DONE.OK (43 R201): `tpmSts` is unchanged. -/
def execBeDoneOk (s : State) : Host.Outcome State Fault Refusal := completionTx s 0#32 false

/-- BE.DONE.FAIL (43 R202): latches `tpmSts`. -/
def execBeDoneFail (status : Word) (s : State) : Host.Outcome State Fault Refusal := completionTx s status true

end Sys2Proof.Machine
end

