-- ==== Sys2Proof/Machine/LocalityArbiter.lean ====
section
/-! DEFINITION. The Locality Arbiter (spec/41_locality_arbiter.md): every write to Locality Control. The written value is
never stored (10 R26), and no outcome depends on the page (R150). -/

namespace Sys2Proof.Machine

/-- REQUEST_ACCESS (41 R151): grants unconditionally; `activeLocality` is not written. -/
def execWrLocRequest (size : Size) (page : Page) (s : State) : Host.Outcome State Fault Refusal :=
  busTx (encode (.wrLocRequest size page)) size page offLocCtrl s
    ((s.setRegs { s.regs with granted := true, beenSeized := false, locAssigned := true }).wrote
      size page offLocCtrl tokRequestAccess)

/-- RELINQUISH (41 R152): deactivates the locality, from any page, busy or not. -/
def execWrLocRelinquish (size : Size) (page : Page) (s : State) : Host.Outcome State Fault Refusal :=
  busTx (encode (.wrLocRelinquish size page)) size page offLocCtrl s
    ((s.setRegs { s.regs with locAssigned := false, granted := false }).wrote size page offLocCtrl tokRelinquish)

/-- SEIZE (41 R153): not implemented by this design, no effect. -/
def execWrLocSeize (size : Size) (page : Page) (s : State) : Host.Outcome State Fault Refusal :=
  ignoredWrite (encode (.wrLocSeize size page)) size page offLocCtrl tokSeize s

/-- RESET_ESTABLISHMENT_BIT (41 R154): localities 3 and 4 are excluded, and for the others it is a placeholder; both
branches have no effect. -/
def execWrLocResetEst (size : Size) (page : Page) (s : State) : Host.Outcome State Fault Refusal :=
  ignoredWrite (encode (.wrLocResetEst size page)) size page offLocCtrl tokResetEst s

/-- Any other value written to Locality Control (41 R155): no token, no effect. -/
def execWrLocOther (size : Size) (page : Page) (value : Word) (s : State) : Host.Outcome State Fault Refusal :=
  ignoredWrite (encode (.wrLocOther size page value)) size page offLocCtrl value s

end Sys2Proof.Machine
end

