-- ==== Sys2Proof/Machine/RegisterFile.lean ====
section
/-! DEFINITION. The Register File's own transactions (spec/40_register_file.md): reads, buffer writes, writes without effect. -/

namespace Sys2Proof.Machine

/-- RD.REG (40 R131): the lanes of the register word; no device field changes. -/
def execRdReg (size : Size) (page : Page) (off : Offset) (s : State) : Host.Outcome State Fault Refusal :=
  busTx (encode (.rdReg size page off)) size page off s (s.readBack size page off (readLanes s.regs size off))

/-- RD.BUF (40 R132): `n` buffer bytes, least significant first; no locality check. -/
def execRdBuf (size : Size) (page : Page) (off : Offset) (s : State) : Host.Outcome State Fault Refusal :=
  busTx (encode (.rdBuf size page off)) size page off s
    (s.readBack size page off (readLE s.buf (bufIndex off) (sizeBytes size)))

/-- A bus write below the request's `inLen` marks it raced (40 R133, 20 R86). -/
def raceMark (i : Nat) (p : Option Request) : Option Request :=
  match p with
  | none => none
  | some r => if i < r.inLen then some { r with inRaced := true } else some r

/-- WR.BUF (40 R133): the bytes are written from any page and while busy. -/
def execWrBuf (size : Size) (page : Page) (off : Offset) (value : Word) (s : State) :
    Host.Outcome State Fault Refusal :=
  busTx (encode (.wrBuf size page off value)) size page off s
    (((s.setBuf (writeLE s.buf (bufIndex off) (sizeBytes size) value)).setPending
      (raceMark (bufIndex off) s.pending)).wrote size page off value)

/-- WR.REG.NOEFFECT (40 R134). -/
def execWrRegNoEffect (size : Size) (page : Page) (off : Offset) (value : Word) (s : State) :
    Host.Outcome State Fault Refusal :=
  ignoredWrite (encode (.wrRegNoEffect size page off value)) size page off value s

end Sys2Proof.Machine
end

