-- ==== Sys2Proof/Machine/ResetPersistence.lean ====
section
/-! DEFINITION. The host's steps (spec/44_reset_persistence.md): reset, save, restore. All three are held while a request is
pending: the backend is drained first (D16). -/

namespace Sys2Proof.Machine

/-- The shell of the host's transactions (60 R259): held after termination and while a request is pending. -/
def hostTx (s : State) (effect : State) : Host.Outcome State Fault Refusal :=
  .next (if s.terminated then s.hold else if s.pending ≠ none then s.hold else effect)

/-- HOST.RESET (44 R220). -/
def execHostReset (s : State) : Host.Outcome State Fault Refusal :=
  hostTx s (resetTx (encode .hostReset) s (fun s' => s'))

/-- HOST.SAVE (44 R224): returns the snapshot; the device state is unchanged. -/
def execHostSave (s : State) : Host.Outcome State Fault Refusal :=
  hostTx s ((s.emit .save).setReply (.snapshot (takeSnapshot s)))

/-- The overwrite of a restore (44 R226): four flags and the buffer from the snapshot. -/
def State.overwrite (s : State) (snap : Snapshot) : State :=
  ((s.setRegs { s.regs with
      locAssigned := (snapWord snap 0).getLsbD 1
      granted := (snapWord snap 3).getLsbD 0
      tpmSts := (snapWord snap 17).getLsbD 0
      tpmIdle := (snapWord snap 17).getLsbD 1 }).setBuf snap.bytes.cells).emit .restore

/-- The part of HOST.RESTORE after the holds (44 R226): an inadmissible snapshot is refused.
DESIGN CHOICE (notes/assumptions/16): so is a restore with no snapshot supplied.
DEDUCED (notes/assumptions/8): a configuration with `BE_MAX` below its bound is refused after that check. -/
def restoreTx (t : TxWord) (s : State) : State :=
  match s.snapArg with
  | none => s.refuse .restoreSnapshot
  | some snap =>
    if admissible s.cfg snap then resetTx t s (fun s' => s'.overwrite snap)
    else s.refuse .restoreSnapshot

/-- HOST.RESTORE (44 R226). -/
def execHostRestore (s : State) : Host.Outcome State Fault Refusal :=
  hostTx s (restoreTx (encode .hostRestore) s)

end Sys2Proof.Machine
end

