-- ==== Sys2Proof/Machine/Dispatch.lean ====
section
/-! DEFINITION. The meaning of every transaction: one arm per constructor of `Instr`, each one call.
A term that no word stands for has its constructor's meaning too (notes/assumptions/10). -/

namespace Sys2Proof.Machine

def exec (i : Instr) (s : State) : Host.Outcome State Fault Refusal :=
  match i with
  | .rdReg size page off => Sys2Proof.Machine.execRdReg size page off s
  | .rdBuf size page off => Sys2Proof.Machine.execRdBuf size page off s
  | .wrLocRequest size page => Sys2Proof.Machine.execWrLocRequest size page s
  | .wrLocRelinquish size page => Sys2Proof.Machine.execWrLocRelinquish size page s
  | .wrLocSeize size page => Sys2Proof.Machine.execWrLocSeize size page s
  | .wrLocResetEst size page => Sys2Proof.Machine.execWrLocResetEst size page s
  | .wrLocOther size page value => Sys2Proof.Machine.execWrLocOther size page value s
  | .wrReqCmdReady size page => Sys2Proof.Machine.execWrReqCmdReady size page s
  | .wrReqGoIdle size page => Sys2Proof.Machine.execWrReqGoIdle size page s
  | .wrReqOther size page value => Sys2Proof.Machine.execWrReqOther size page value s
  | .wrCancelCancel size page => Sys2Proof.Machine.execWrCancelCancel size page s
  | .wrCancelOther size page value => Sys2Proof.Machine.execWrCancelOther size page value s
  | .wrStartInvoke size page => Sys2Proof.Machine.execWrStartInvoke size page s
  | .wrStartOther size page value => Sys2Proof.Machine.execWrStartOther size page value s
  | .wrRegNoEffect size page off value => Sys2Proof.Machine.execWrRegNoEffect size page off value s
  | .wrBuf size page off value => Sys2Proof.Machine.execWrBuf size page off value s
  | .beWr index byte => Sys2Proof.Machine.execBeWr index byte s
  | .beDoneOk => Sys2Proof.Machine.execBeDoneOk s
  | .beDoneFail status => Sys2Proof.Machine.execBeDoneFail status s
  | .hostReset => Sys2Proof.Machine.execHostReset s
  | .hostSave => Sys2Proof.Machine.execHostSave s
  | .hostRestore => Sys2Proof.Machine.execHostRestore s

end Sys2Proof.Machine
end

