-- ==== Sys2Proof/Machine/Step.lean ====
section
/-! DEFINITION. One step of the machine: the first offered transaction (spec/00_scope.md R7, spec/20_memory.md R82;
notes/assumptions/1) is taken, its word checked and decoded (spec/60_exceptions.md R256), and the instruction executed. -/

namespace Sys2Proof.Machine

/-- One step. With nothing offered no agent has a step, and the state stays (60 R259). A word that fails a check of 30 R104
is refused by name before anything else is looked at (60 R256). -/
def step (s : State) : Host.Outcome State Fault Refusal :=
  match s.offers with
  | [] => .next s
  | o :: rest =>
    match decode o.word with
    | .error c => .next ((s.takeOffer o rest).refuse (.illFormed c))
    | .ok i => exec i (s.takeOffer o rest)

/-- `s` with the transaction whose word is the low `nbits` bits of `w` offered first, so that `step` takes exactly it. The
operand that stands beside HOST.RESTORE's word is a snapshot of `s` itself (notes/assumptions/1). -/
def State.withFetchWord (s : State) (nbits w : Nat) : State :=
  { s with offers := ⟨BitVec.ofNat 64 (w % 2 ^ nbits), some (takeSnapshot s), none⟩ :: s.offers }

end Sys2Proof.Machine
end

