-- ==== Sys2Proof/Machine/OpcodeTable.lean ====
section
/-! DEFINITION. The rows of spec/opcode_table.json as the table gives them: match and mask, in the table's order, the first
matching row winning (spec/30_encoding.md R108). Nothing in the step reads them: they are the table the decoder is held against. -/

namespace Sys2Proof.Machine

/-- A row: a word belongs to it when `t &&& mask = mtch`. -/
structure OpcodeRow where
  mtch : TxWord
  mask : TxWord
deriving DecidableEq, Repr

/-- Rows 1 to 22. -/
def opcodeTable : List OpcodeRow :=
  [ ⟨0x0000000000000000#64, 0xFFFFFFFFF3FF8F80#64⟩, -- RD.REG
    ⟨0x0000000000000000#64, 0xFFFFFFFFF3FF8000#64⟩, -- RD.BUF
    ⟨0x0000000110000008#64, 0xFFFFFFFFF3FF8FFF#64⟩, -- WR.LOC_CTRL.REQUEST_ACCESS
    ⟨0x0000000210000008#64, 0xFFFFFFFFF3FF8FFF#64⟩, -- WR.LOC_CTRL.RELINQUISH
    ⟨0x0000000410000008#64, 0xFFFFFFFFF3FF8FFF#64⟩, -- WR.LOC_CTRL.SEIZE
    ⟨0x0000000810000008#64, 0xFFFFFFFFF3FF8FFF#64⟩, -- WR.LOC_CTRL.RESET_ESTABLISHMENT_BIT
    ⟨0x0000000010000008#64, 0x00000000F3FF8FFF#64⟩, -- WR.LOC_CTRL.OTHER
    ⟨0x0000000110000040#64, 0xFFFFFFFFF3FF8FFF#64⟩, -- WR.CTRL_REQ.CMD_READY
    ⟨0x0000000210000040#64, 0xFFFFFFFFF3FF8FFF#64⟩, -- WR.CTRL_REQ.GO_IDLE
    ⟨0x0000000010000040#64, 0x00000000F3FF8FFF#64⟩, -- WR.CTRL_REQ.OTHER
    ⟨0x0000000110000048#64, 0xFFFFFFFFF3FF8FFF#64⟩, -- WR.CTRL_CANCEL.CANCEL
    ⟨0x0000000010000048#64, 0x00000000F3FF8FFF#64⟩, -- WR.CTRL_CANCEL.OTHER
    ⟨0x000000011000004C#64, 0xFFFFFFFFF3FF8FFF#64⟩, -- WR.CTRL_START.INVOKE
    ⟨0x000000001000004C#64, 0x00000000F3FF8FFF#64⟩, -- WR.CTRL_START.OTHER
    ⟨0x0000000010000000#64, 0x00000000F3FF8F80#64⟩, -- WR.REG.NOEFFECT
    ⟨0x0000000010000000#64, 0x00000000F3FF8000#64⟩, -- WR.BUF
    ⟨0x0000000020000000#64, 0xFFFFFF00FFFFF000#64⟩, -- BE.WR
    ⟨0x0000000030000000#64, 0xFFFFFFFFFFFFFFFF#64⟩, -- BE.DONE.OK
    ⟨0x0000000030000000#64, 0x00000000FFFFFFFF#64⟩, -- BE.DONE.FAIL
    ⟨0x0000000040000000#64, 0xFFFFFFFFFFFFFFFF#64⟩, -- HOST.RESET
    ⟨0x0000000050000000#64, 0xFFFFFFFFFFFFFFFF#64⟩, -- HOST.SAVE
    ⟨0x0000000060000000#64, 0xFFFFFFFFFFFFFFFF#64⟩] -- HOST.RESTORE

/-- The row of an instruction, counted from 0. -/
def rowOf : Instr → Nat
  | .rdReg .. => 0
  | .rdBuf .. => 1
  | .wrLocRequest .. => 2
  | .wrLocRelinquish .. => 3
  | .wrLocSeize .. => 4
  | .wrLocResetEst .. => 5
  | .wrLocOther .. => 6
  | .wrReqCmdReady .. => 7
  | .wrReqGoIdle .. => 8
  | .wrReqOther .. => 9
  | .wrCancelCancel .. => 10
  | .wrCancelOther .. => 11
  | .wrStartInvoke .. => 12
  | .wrStartOther .. => 13
  | .wrRegNoEffect .. => 14
  | .wrBuf .. => 15
  | .beWr .. => 16
  | .beDoneOk => 17
  | .beDoneFail .. => 18
  | .hostReset => 19
  | .hostSave => 20
  | .hostRestore => 21

/-- The first row that a word matches. -/
def firstRow (t : TxWord) : Option Nat := opcodeTable.findIdx? (fun r => t &&& r.mask == r.mtch)

end Sys2Proof.Machine
end

