-- ==== Sys2Proof/Safety.lean ====
section
/-! DEFINITION. What counts as a safe run, and the words the statements are written in: the premises of a claim
(spec/70_reset_and_hazards.md R292), the invariants (spec/10_state.md R45), the protocol the history follows
(spec/43_completion.md R203), and the clauses every transaction's rule shares (spec/40_register_file.md R130, spec/60_exceptions.md). -/

namespace Sys2Proof.Safety

open Sys2Proof Sys2Proof.Machine

/-! ## Runs -/

/-- `clean(s)` (70 R292): no fault recorded, nothing refused, not terminated. -/
def clean (s : State) : Bool := s.faults.isEmpty && !s.refused && !s.terminated

/-- The states of the runs of an accepted configuration: the launch state, any transactions offered at any time, and steps (20 R82).
A configuration whose reset is refused has no launch state (70 R280, 44 R221; notes/assumptions/17). -/
inductive Reachable (cfg : Config) : State → Prop where
  | launch : accepted cfg → Reachable cfg (State.init cfg)
  | offer (s : State) (os : List Offer) : Reachable cfg s → Reachable cfg { s with offers := os }
  | step (s t : State) : Reachable cfg s → step s = .next t → Reachable cfg t

/-- `launch(s, cfg)` (70 R292): the launch state of an accepted configuration, or a reachable state with no request pending. -/
def isLaunch (cfg : Config) (s : State) : Prop :=
  (accepted cfg ∧ s = State.init cfg) ∨ (Reachable cfg s ∧ s.pending = none)

/-- Run several transactions one after another, with no other step between them. -/
def execAll : List Instr → State → Host.Outcome State Fault Refusal
  | [], s => .next s
  | i :: is, s =>
    match exec i s with
    | .next t => execAll is t
    | .fault f => .fault f
    | .refused r => .refused r

/-! ## Invariants -/

/-- The invariants of 10 R45 (items 1 to 6 and 8), with the canonical form of the buffer. -/
structure DevInv (s : State) : Prop where
  /-- item 1 -/
  startIffPending : s.regs.start = s.pending.isSome
  /-- item 3 -/
  cmdSizeIsN : s.regs.cmdSize = BitVec.ofNat 32 s.n
  rspSizeIsN : s.regs.rspSize = BitVec.ofNat 32 s.n
  nNegotiated : s.n = min s.cfg.beMax 0xF80
  cfgAccepted : accepted s.cfg
  /-- item 4 -/
  activeZero : s.regs.activeLocality = 0#3
  neverSeized : s.regs.beenSeized = false
  established : s.regs.tpmEstablished = true
  regValid : s.regs.tpmRegValidSts = true
  /-- item 5 -/
  grantedIffAssigned : s.regs.granted = s.regs.locAssigned
  /-- item 6 -/
  intfIdFixed : s.regs.intfId = s.cfg.intfIdValue
  intfId2Fixed : s.regs.intfId2 = s.cfg.intfId2Value
  cmdAddrFixed : s.regs.cmdAddrHigh ++ s.regs.cmdAddrLow = s.cfg.baseAddr + 0x80#64
  rspAddrFixed : s.regs.rspAddrHigh ++ s.regs.rspAddrLow = s.cfg.baseAddr + 0x80#64
  /-- item 8 -/
  requestFits : ∀ r, s.pending = some r → r.outCap = s.n ∧ r.inLen ≤ s.n
  /-- 10 R40: the buffer has exactly `n` bytes, in the canonical form -/
  bufCanonical : memWf s.buf = true
  bufBounded : memBelow s.buf s.n = true

/-- The protocol the events follow, read one by one: `some b` says whether a request is in flight, `none` that the protocol
was broken. Submit only when idle; completion, response bytes and forwarded cancels only while in flight (43 R203, R204);
reset, save and restore only when drained (60 R259). -/
def trackBusy : Option Bool → Event → Option Bool
  | none, _ => none
  | some b, .bus .. => some b
  | some b, .submit .. => if b then none else some true
  | some b, .cancelFwd => if b then some true else none
  | some b, .beWrite .. => if b then some true else none
  | some b, .complete _ => if b then some false else none
  | some b, .beReset => if b then none else some false
  | some b, .startup .. => if b then none else some false
  | some b, .save => if b then none else some false
  | some b, .restore => if b then none else some false
  | some b, .fault .. => some b
  | some b, .refuse _ => some b

/-- Whether a request is in flight after these events; none if they break the protocol. -/
def busyAfter (h : List Event) : Option Bool := h.foldl trackBusy (some false)

/-- The history follows the protocol, and agrees with the request slot. -/
def HistInv (s : State) : Prop := busyAfter s.hist = some s.pending.isSome

/-! ## Shared clauses of the rules -/

/-- The device fields of 10 R22 are the same (everything but the model bookkeeping of R43, R44). -/
def sameDevice (s t : State) : Prop :=
  t.regs = s.regs ∧ t.buf = s.buf ∧ t.n = s.n ∧ t.pending = s.pending

/-- The bus access passes every check of 40 R130: device present, page in the window, aligned, inside the buffer. -/
def BusReady (s : State) (size : Size) (page : Page) (off : Offset) : Prop :=
  s.terminated = false ∧ page.toNat < 5 ∧ off.toNat % sizeBytes size = 0 ∧
    (0x80 ≤ off.toNat → off.toNat - 0x80 + sizeBytes size ≤ s.n)

/-- The state after fault entry (60 R253): nothing but the record, the event and the reply. -/
def faultPost (s : State) (code : Fault) (t : TxWord) : State :=
  { s with faults := s.faults ++ [{ code := code, word := t }], hist := s.hist ++ [.fault code t], reply := .faulted code }

/-- The state after a hold (60 R259): nothing but the reply. -/
def heldPost (s : State) : State := { s with reply := .held }

/-- The state after a refusal (60 R258). -/
def refusedPost (s : State) (reason : Refusal) : State :=
  { s with refused := true, hist := s.hist ++ [.refuse reason], reply := .refused reason }

/-- The state after a bus write that has no other effect: its event only (60 R251). -/
def ignoredPost (s : State) (size : Size) (page : Page) (off : Offset) (v : Word) : State :=
  { s with hist := s.hist ++ [.bus .write page off size v], reply := .done }

/-- `log2(n)` of an access size (30 R103). -/
def sizeLog : Size → Nat
  | .b1 => 0
  | .b2 => 1
  | .b4 => 2

/-- The word of a bus transaction, as 30 R101 and R112 compute it. -/
def busWord (op : Nat) (size : Size) (page : Page) (off : Offset) (v : Word) : TxWord :=
  BitVec.ofNat 64 (v.toNat * 2 ^ 32 + op * 2 ^ 28 + sizeLog size * 2 ^ 26 + page.toNat * 2 ^ 12 + off.toNat)

/-- The instruction and the word stand for each other. -/
def EncodedAs (i : Instr) (t : TxWord) : Prop := encode i = t ∧ decode t = .ok i

/-- The access check of a bus transaction with word `t` (40 R130), with the fault entry of 60 R253: in this order
termination holds, a page outside the window and a misaligned offset fault with `FLT_ACCESS`, an access past the buffer with `FLT_OVERRUN`. -/
def AccessChecked (i : Instr) (size : Size) (page : Page) (off : Offset) (t : TxWord) : Prop :=
  ∀ s : State,
    (s.terminated = true → exec i s = .next (heldPost s)) ∧
    (s.terminated = false → 5 ≤ page.toNat → exec i s = .next (faultPost s .access t)) ∧
    (s.terminated = false → page.toNat < 5 → off.toNat % sizeBytes size ≠ 0 →
      exec i s = .next (faultPost s .access t)) ∧
    (s.terminated = false → page.toNat < 5 → off.toNat % sizeBytes size = 0 → 0x80 ≤ off.toNat →
      s.n < off.toNat - 0x80 + sizeBytes size → exec i s = .next (faultPost s .overrun t))

/-- A bus write with value `v` at `off` that has no effect: encoding, access check, and the completed step. -/
def NoEffectWrite (i : Instr) (size : Size) (page : Page) (off : Offset) (v : Word) : Prop :=
  EncodedAs i (busWord 1 size page off v) ∧ AccessChecked i size page off (busWord 1 size page off v) ∧
    ∀ s : State, BusReady s size page off → exec i s = .next (ignoredPost s size page off v)

/-- The bus access of a transaction; none for a transaction of another agent. -/
def busAccess : Instr → Option (Size × Page × Offset)
  | .rdReg size page off => some (size, page, off)
  | .rdBuf size page off => some (size, page, off)
  | .wrLocRequest size page => some (size, page, 0x008#12)
  | .wrLocRelinquish size page => some (size, page, 0x008#12)
  | .wrLocSeize size page => some (size, page, 0x008#12)
  | .wrLocResetEst size page => some (size, page, 0x008#12)
  | .wrLocOther size page _ => some (size, page, 0x008#12)
  | .wrReqCmdReady size page => some (size, page, 0x040#12)
  | .wrReqGoIdle size page => some (size, page, 0x040#12)
  | .wrReqOther size page _ => some (size, page, 0x040#12)
  | .wrCancelCancel size page => some (size, page, 0x048#12)
  | .wrCancelOther size page _ => some (size, page, 0x048#12)
  | .wrStartInvoke size page => some (size, page, 0x04C#12)
  | .wrStartOther size page _ => some (size, page, 0x04C#12)
  | .wrRegNoEffect size page off _ => some (size, page, off)
  | .wrBuf size page off _ => some (size, page, off)
  | .beWr _ _ => none
  | .beDoneOk => none
  | .beDoneFail _ => none
  | .hostReset => none
  | .hostSave => none
  | .hostRestore => none

/-- The check `c` of 30 R104 holds of a word, in R101's fields. -/
def wfHolds (t : TxWord) : WfCheck → Prop
  | .op => (txOp t).toNat ≤ 6
  | .rsvd => txRsvd t = 0#11
  | .size => ((txOp t).toNat ≤ 1 → (txSize t).toNat ≤ 2) ∧ (1 < (txOp t).toNat → txSize t = 0#2)
  | .rdata => (txOp t).toNat = 0 → txData t = 0#32
  | .wdata => (txOp t).toNat = 1 → (txData t).toNat < 2 ^ (8 <<< (txSize t).toNat)
  | .bedata => (txOp t).toNat = 2 → (txData t).toNat < 0x100 ∧ txPage t = 0#3
  | .done => (txOp t).toNat = 3 → txPage t = 0#3 ∧ txOff t = 0#12
  | .host => 4 ≤ (txOp t).toNat → (txOp t).toNat ≤ 6 → txData t = 0#32 ∧ txPage t = 0#3 ∧ txOff t = 0#12

/-- The order in which the checks are made (30 R104, 60 R256). -/
def wfRank : WfCheck → Nat
  | .op => 0
  | .rsvd => 1
  | .size => 2
  | .rdata => 3
  | .wdata => 4
  | .bedata => 5
  | .done => 6
  | .host => 7

/-! ## Driver programs, their runs, and claims about them (70 R292) -/

/-- One part of a driver program: a bus transaction, or the loop `repeat POLL L until it returns 0`. -/
inductive DriverOp where
  | tx (word : TxWord)
  | pollLoop (page : Page)
deriving DecidableEq, Repr

/-- The word the driver offers for it; `POLL L` is `RD.4 L:0x04C` (30 R113). -/
def driverWord : DriverOp → TxWord
  | .tx word => word
  | .pollLoop page => busWord 0 .b4 page 0x04C#12 0#32

/-- Whether the transaction that led to `t` finishes this part of the program: a loop only when its read returned 0. -/
def finishes : DriverOp → State → Bool
  | .tx _, _ => true
  | .pollLoop _, t => t.reply == .data .b4 0#32

/-- The word is a bus transaction's: a driver makes no other (30 R101: `OP` 0 or 1). -/
def isBusWord (t : TxWord) : Prop := (txOp t).toNat ≤ 1

/-- The word is a transaction of the backend or the host (30 R101: `OP` 2 to 6). -/
def isOtherWord (t : TxWord) : Prop := 2 ≤ (txOp t).toNat ∧ (txOp t).toNat ≤ 6

/-- A driver program `P`: finitely many bus transactions and poll loops. -/
def isProgram (P : List DriverOp) : Prop := ∀ op ∈ P, isBusWord (driverWord op)

/-- A point of a run: what is left of the driver's program, and the state. -/
structure RunPoint where
  todo : List DriverOp
  state : State
deriving DecidableEq, Repr

/-- The run has ended: the program's last transaction has taken its step, and no request is pending (70 R292, D42). -/
def RunPoint.ended (c : RunPoint) : Prop := c.todo = [] ∧ c.state.pending = none

/-- An agent takes the step of transaction `o`: it is offered, and it is not held, for a held transaction has no step (60 R259). -/
def takes (s : State) (o : Offer) (t : State) : Prop := step { s with offers := [o] } = .next t ∧ t.reply ≠ .held

/-- One step of a run (70 R292): the driver's next transaction, or one of the backend or the host with anything beside its word
(a snapshot, a startup result). No step leads on from the end of the run. -/
inductive Move : RunPoint → RunPoint → Prop where
  | driver (op : DriverOp) (rest : List DriverOp) (s t : State) :
      isBusWord (driverWord op) → takes s ⟨driverWord op, none, none⟩ t →
        Move ⟨op :: rest, s⟩ ⟨if finishes op t then rest else op :: rest, t⟩
  | other (P : List DriverOp) (s t : State) (o : Offer) :
      isOtherWord o.word → ¬ RunPoint.ended ⟨P, s⟩ → takes s o t → Move ⟨P, s⟩ ⟨P, t⟩

/-- The points that the runs of `P` from `s` pass. -/
def passes (P : List DriverOp) (s : State) (c : RunPoint) : Prop := Relation.ReflTransGen Move ⟨P, s⟩ c

/-- `t` is the state in which a run of `P` from `s` ends: the first, since a run has no step past its end. -/
def endsIn (P : List DriverOp) (s t : State) : Prop := passes P s ⟨[], t⟩ ∧ t.pending = none

/-- A run of `P` that never ends. -/
def isEndlessRun (cfg : Config) (P : List DriverOp) (run : Nat → RunPoint) : Prop :=
  (∃ s, isLaunch cfg s ∧ run 0 = ⟨P, s⟩) ∧ ∀ k, Move (run k) (run (k + 1))

/-- `backendLive` (70 R292) of the runs that a platform admits: in every one of them, every pending request is completed after
finitely many steps. In a run that ends it is completed, since the end has none. A premise for claims: the model has no fairness,
and over all of its own runs the premise is false wherever a backend can stall (R288; notes/assumptions/11). -/
def backendLive (admits : (Nat → RunPoint) → Prop) : Prop :=
  ∀ (cfg : Config) (P : List DriverOp) (run : Nat → RunPoint), admits run → isEndlessRun cfg P run →
    ∀ k, (run k).state.pending ≠ none → ∃ m, k < m ∧ (run m).state.pending = none

/-- A claim about the end of the runs of `P` (70 R292): it speaks of the runs from a launch state that end clean. -/
def claimHolds (cfg : Config) (P : List DriverOp) (claim : State → Prop) : Prop :=
  ∀ s t : State, isLaunch cfg s → endsIn P s t → clean t = true → claim t

end Sys2Proof.Safety
end

