-- ==== Sys2Proof/Certificates/Slice0/Obligations.lean ====
section
/-! DEFINITION. The statements for the provers, rule by rule of spec/. Each is about every state and every operand; where a
statement could fail only in states no run reaches, it takes an invariant as a premise that is a statement of its own.
The field `reply` (what the transaction's agent got back), faults and refusals as next states, and a hold as a step that changes
`reply` alone are the model's way of writing the outcomes of 00 R12 (notes/assumptions/2 and 6); the rules fix all the other fields. -/

open Sys2Proof Sys2Proof.Machine Sys2Proof.Safety

/-! ## Decoding and encoding (spec/30_encoding.md) -/

/-- 30 R101: the fields are the bits the table gives them, and they are all of the word. -/
def Obligations.FieldsAreTheTablesBits : Prop :=
  ∀ t : TxWord,
    (txOff t).toNat = t.toNat % 2 ^ 12 ∧ (txPage t).toNat = t.toNat / 2 ^ 12 % 2 ^ 3 ∧
    (txRsvd t).toNat = t.toNat / 2 ^ 15 % 2 ^ 11 ∧ (txSize t).toNat = t.toNat / 2 ^ 26 % 2 ^ 2 ∧
    (txOp t).toNat = t.toNat / 2 ^ 28 % 2 ^ 4 ∧ (txData t).toNat = t.toNat / 2 ^ 32 ∧
    t.toNat = (txData t).toNat * 2 ^ 32 + (txOp t).toNat * 2 ^ 28 + (txSize t).toNat * 2 ^ 26
      + (txRsvd t).toNat * 2 ^ 15 + (txPage t).toNat * 2 ^ 12 + (txOff t).toNat

/-- 30 R104, R109, 60 R256: a word decodes exactly when every check holds, and a word that fails is refused for the first
check, in R104's order, that it fails. -/
def Obligations.WordsAreCheckedInOrder : Prop :=
  ∀ t : TxWord,
    ((∃ i, decode t = .ok i) ↔ ∀ c, wfHolds t c) ∧
    ∀ c, decode t = .error c ↔ (¬ wfHolds t c ∧ ∀ d, wfRank d < wfRank c → wfHolds t d)

/-- 30 R108: the decoder gives the first row of the opcode table that the word matches. -/
def Obligations.DecodeFollowsOpcodeTable : Prop :=
  ∀ (t : TxWord) (i : Instr), decode t = .ok i → firstRow t = some (rowOf i)

/-- 30 R101 to R108: every well-formed instruction comes back from its word, with every operand. -/
def Obligations.DecodeEncodeRoundTrip : Prop :=
  ∀ i : Instr, wellFormed i = true → decode (encode i) = .ok i

/-- 30 R101 to R108: a word that decodes is the word of the instruction it decodes to, which is well-formed: no bit is dropped. -/
def Obligations.EncodeDecodeRoundTrip : Prop :=
  ∀ (t : TxWord) (i : Instr), decode t = .ok i → wellFormed i = true ∧ encode i = t

/-- 30 R101, R108: words of the spec's own examples (95 section 3.2 and the rules' examples) decode as the spec says. -/
def Obligations.ExampleWordsDecode : Prop :=
  decode 0x0000000008000000#64 = .ok (.rdReg .b4 0#3 0x000#12) ∧
  decode 0x0000000004000080#64 = .ok (.rdBuf .b2 0#3 0x080#12) ∧
  decode 0x0000000118000008#64 = .ok (.wrLocRequest .b4 0#3) ∧
  decode 0x000000011000004C#64 = .ok (.wrStartInvoke .b1 0#3) ∧
  decode 0x000000011000004D#64 = .ok (.wrRegNoEffect .b1 0#3 0x04D#12 0x1#32) ∧
  decode 0x000000031800004C#64 = .ok (.wrStartOther .b4 0#3 0x3#32) ∧
  decode 0x0000008020000000#64 = .ok (.beWr 0x000#12 0x80#8) ∧
  decode 0x0000800030000000#64 = .ok (.beDoneFail 0x8000#32) ∧
  decode 0x0000000060000000#64 = .ok .hostRestore ∧
  decode 0x0000000070000000#64 = .error .op

/-! ## The step -/

/-- 00 R7, R12 (the model's offers, notes/assumptions/1): a step takes the first offer, and runs the instruction its word
decodes to on the state with the offer's operands beside it. Nothing else is added around `exec`. -/
def Obligations.StepRunsTheDecodedOffer : Prop :=
  ∀ (s : State) (o : Offer) (rest : List Offer) (i : Instr),
    s.offers = o :: rest → decode o.word = .ok i →
      step s = exec i { s with offers := rest, snapArg := o.snap, startupArg := o.startup }

/-- 60 R258, 30 R104: an ill-formed word is refused by name in every state, terminated or not: the mark, the event, and no
other field (the offer is used up, notes/assumptions/1). With nothing offered the state stays. -/
def Obligations.StepRefusesIllFormedWords : Prop :=
  ∀ (s : State),
    (∀ (o : Offer) (rest : List Offer) (c : WfCheck), s.offers = o :: rest → decode o.word = .error c →
      step s = .next (refusedPost { s with offers := rest, snapArg := o.snap, startupArg := o.startup } (.illFormed c))) ∧
    (s.offers = [] → step s = .next s)

/-- 00 R12, 60 R253, R258, R259 (notes/assumptions/2): every transaction ends in a next state; faults, refusals and holds are recorded there. -/
def Obligations.EveryTransactionEndsInANextState : Prop :=
  (∀ (i : Instr) (s : State), ∃ t, exec i s = .next t) ∧ ∀ s : State, ∃ t, step s = .next t

/-! ## Registers and reset values (spec/10_state.md) -/

/-- 10 R23: the word view, bit by bit in numbers; every other 4-aligned offset of the register area reads 0. -/
def Obligations.RegisterWordView : Prop :=
  ∀ r : Regs,
    (wordAt r 0x000#12).toNat = r.tpmEstablished.toNat + 2 * r.locAssigned.toNat + 4 * r.activeLocality.toNat
      + 128 * r.tpmRegValidSts.toNat ∧
    wordAt r 0x008#12 = 0#32 ∧
    (wordAt r 0x00C#12).toNat = r.granted.toNat + 2 * r.beenSeized.toNat ∧
    wordAt r 0x030#12 = r.intfId ∧ wordAt r 0x034#12 = r.intfId2 ∧
    wordAt r 0x040#12 = 0#32 ∧
    (wordAt r 0x044#12).toNat = r.tpmSts.toNat + 2 * r.tpmIdle.toNat ∧
    wordAt r 0x048#12 = 0#32 ∧
    (wordAt r 0x04C#12).toNat = r.start.toNat ∧
    wordAt r 0x058#12 = r.cmdSize ∧ wordAt r 0x05C#12 = r.cmdAddrLow ∧ wordAt r 0x060#12 = r.cmdAddrHigh ∧
    wordAt r 0x064#12 = r.rspSize ∧ wordAt r 0x068#12 = r.rspAddrLow ∧ wordAt r 0x06C#12 = r.rspAddrHigh ∧
    ∀ off : Offset, off ∈ [0x004#12, 0x010#12, 0x014#12, 0x018#12, 0x01C#12, 0x020#12, 0x024#12, 0x028#12, 0x02C#12,
        0x038#12, 0x03C#12, 0x050#12, 0x054#12, 0x070#12, 0x074#12, 0x078#12, 0x07C#12] → wordAt r off = 0#32

/-- 70 R280, 10 section 8: the launch state of every accepted configuration (44 R221; no other has one), and that a HOST.RESET
whose startup succeeds, answered so or drawn so, gives these device fields in any state in which it is enabled. -/
def Obligations.LaunchStateIsTheResetState : Prop :=
  ∀ cfg : Config, accepted cfg →
    (let r := (State.init cfg).regs
     wordAt r 0x000#12 = 0x81#32 ∧ wordAt r 0x008#12 = 0#32 ∧ wordAt r 0x00C#12 = 0#32 ∧
     wordAt r 0x040#12 = 0#32 ∧ wordAt r 0x048#12 = 0#32 ∧
     wordAt r 0x030#12 = cfg.intfIdValue ∧ wordAt r 0x034#12 = cfg.intfId2Value ∧
     wordAt r 0x044#12 = 0x2#32 ∧ wordAt r 0x04C#12 = 0#32 ∧
     wordAt r 0x058#12 = BitVec.ofNat 32 (min cfg.beMax 0xF80) ∧ wordAt r 0x064#12 = BitVec.ofNat 32 (min cfg.beMax 0xF80) ∧
     wordAt r 0x060#12 ++ wordAt r 0x05C#12 = cfg.baseAddr + 0x80#64 ∧
     wordAt r 0x06C#12 ++ wordAt r 0x068#12 = cfg.baseAddr + 0x80#64) ∧
    (State.init cfg).n = min cfg.beMax 0xF80 ∧ (∀ i, readByte (State.init cfg).buf i = 0#8) ∧
    (State.init cfg).pending = none ∧ (State.init cfg).faults = [] ∧
    (State.init cfg).terminated = false ∧ (State.init cfg).refused = false ∧
    (State.init cfg).hist = [.beReset, .startup (min cfg.beMax 0xF80) true] ∧
    ∀ s : State, s.cfg = cfg → s.terminated = false → s.pending = none → startupResult s = true →
      ∃ t, exec .hostReset s = .next t ∧ sameDevice (State.init cfg) t

/-! ## The access check (spec/40_register_file.md) -/

/-- 40 R130, 60 R253: every bus transaction passes one access check, in one order, and a failing one has no effect but its record. -/
def Obligations.EveryBusAccessIsChecked : Prop :=
  ∀ (i : Instr) (size : Size) (page : Page) (off : Offset),
    busAccess i = some (size, page, off) → AccessChecked i size page off (encode i)

/-! ## Reads and buffer writes (spec/40_register_file.md) -/

/-- 40 R131: a register read returns the lanes of the containing word, and changes no device field. -/
def Obligations.ReadRegisterReturnsLanes : Prop :=
  ∀ (size : Size) (page : Page) (off : Offset), off.toNat < 0x80 →
    EncodedAs (.rdReg size page off) (busWord 0 size page off 0#32) ∧
    AccessChecked (.rdReg size page off) size page off (busWord 0 size page off 0#32) ∧
    ∀ s : State, BusReady s size page off →
      let v := BitVec.ofNat 32
        ((wordAt s.regs (off &&& ~~~3#12)).toNat / 2 ^ (8 * (off.toNat % 4)) % 2 ^ (8 * sizeBytes size))
      exec (.rdReg size page off) s =
        .next { s with hist := s.hist ++ [.bus .read page off size v], reply := .data size v }

/-- 40 R132: a buffer read returns the bytes `i .. i+n-1`, the first least significant, and changes no device field. -/
def Obligations.ReadBufferReturnsBytes : Prop :=
  ∀ (size : Size) (page : Page) (off : Offset), 0x80 ≤ off.toNat →
    EncodedAs (.rdBuf size page off) (busWord 0 size page off 0#32) ∧
    AccessChecked (.rdBuf size page off) size page off (busWord 0 size page off 0#32) ∧
    ∀ s : State, BusReady s size page off →
      let v := BitVec.ofNat 32
        (((List.range (sizeBytes size)).map
          (fun k => (readByte s.buf (off.toNat - 0x80 + k)).toNat * 2 ^ (8 * k))).sum)
      exec (.rdBuf size page off) s =
        .next { s with hist := s.hist ++ [.bus .read page off size v], reply := .data size v }

/-- 40 R133 with its frame: a buffer write stores byte `k` of the value at index `i+k`, marks a pending request whose
command it hits, leaves every other byte and every other field; from any page and while busy. The premise on the buffer is
the invariant `DevInv.bufCanonical`. -/
def Obligations.WriteBufferStoresBytes : Prop :=
  ∀ (size : Size) (page : Page) (off : Offset) (v : Word), 0x80 ≤ off.toNat → v.toNat < 2 ^ (8 * sizeBytes size) →
    EncodedAs (.wrBuf size page off v) (busWord 1 size page off v) ∧
    AccessChecked (.wrBuf size page off v) size page off (busWord 1 size page off v) ∧
    ∀ s : State, BusReady s size page off → memWf s.buf = true →
      ∃ m : List Host.Cell,
        exec (.wrBuf size page off v) s =
          .next { s with
            buf := m
            pending := s.pending.map (fun r => { r with inRaced := r.inRaced || decide (off.toNat - 0x80 < r.inLen) })
            hist := s.hist ++ [.bus .write page off size v]
            reply := .done } ∧
        (∀ k, k < sizeBytes size → (readByte m (off.toNat - 0x80 + k)).toNat = v.toNat / 2 ^ (8 * k) % 2 ^ 8) ∧
        ∀ j, (j < off.toNat - 0x80 ∨ off.toNat - 0x80 + sizeBytes size ≤ j) → readByte m j = readByte s.buf j

/-- 40 R132 (the source's round trip), for every size and value and any two pages: the bytes written to the buffer are read
back. The premise on the buffer is the invariant `DevInv.bufCanonical`. -/
def Obligations.BufferWriteReadsBack : Prop :=
  ∀ (s : State) (size : Size) (p q : Page) (off : Offset) (v : Word),
    0x80 ≤ off.toNat → v.toNat < 2 ^ (8 * sizeBytes size) →
    BusReady s size p off → BusReady s size q off → memWf s.buf = true →
      ∃ t, execAll [.wrBuf size p off v, .rdBuf size q off] s = .next t ∧ t.reply = .data size v

/-- 40 R134, 41 R153, R154, R155, 42 R172, R174, R176: the seven transactions that have no effect. -/
def Obligations.WritesWithoutEffect : Prop :=
  ∀ (size : Size) (page : Page),
    NoEffectWrite (.wrLocSeize size page) size page 0x008#12 0x4#32 ∧
    NoEffectWrite (.wrLocResetEst size page) size page 0x008#12 0x8#32 ∧
    ∀ v : Word, v.toNat < 2 ^ (8 * sizeBytes size) →
      (v ≠ 0x1#32 → v ≠ 0x2#32 → v ≠ 0x4#32 → v ≠ 0x8#32 →
        NoEffectWrite (.wrLocOther size page v) size page 0x008#12 v) ∧
      (v ≠ 0x1#32 → v ≠ 0x2#32 → NoEffectWrite (.wrReqOther size page v) size page 0x040#12 v) ∧
      (v ≠ 0x1#32 → NoEffectWrite (.wrCancelOther size page v) size page 0x048#12 v) ∧
      (v ≠ 0x1#32 → NoEffectWrite (.wrStartOther size page v) size page 0x04C#12 v) ∧
      ∀ off : Offset, off.toNat < 0x80 →
        off ≠ 0x008#12 → off ≠ 0x040#12 → off ≠ 0x048#12 → off ≠ 0x04C#12 →
          NoEffectWrite (.wrRegNoEffect size page off v) size page off v

/-! ## The locality arbiter (spec/41_locality_arbiter.md) -/

/-- 41 R151: REQUEST_ACCESS grants from any page, and writes three flags only. -/
def Obligations.RequestAccessGrants : Prop :=
  ∀ (size : Size) (page : Page),
    EncodedAs (.wrLocRequest size page) (busWord 1 size page 0x008#12 0x1#32) ∧
    AccessChecked (.wrLocRequest size page) size page 0x008#12 (busWord 1 size page 0x008#12 0x1#32) ∧
    ∀ s : State, BusReady s size page 0x008#12 →
      exec (.wrLocRequest size page) s =
        .next { s with
          regs := { s.regs with granted := true, beenSeized := false, locAssigned := true }
          hist := s.hist ++ [.bus .write page 0x008#12 size 0x1#32]
          reply := .done }

/-- 41 R152: RELINQUISH clears two flags from any page; a pending request stays. -/
def Obligations.RelinquishDeactivates : Prop :=
  ∀ (size : Size) (page : Page),
    EncodedAs (.wrLocRelinquish size page) (busWord 1 size page 0x008#12 0x2#32) ∧
    AccessChecked (.wrLocRelinquish size page) size page 0x008#12 (busWord 1 size page 0x008#12 0x2#32) ∧
    ∀ s : State, BusReady s size page 0x008#12 →
      exec (.wrLocRelinquish size page) s =
        .next { s with
          regs := { s.regs with locAssigned := false, granted := false }
          hist := s.hist ++ [.bus .write page 0x008#12 size 0x2#32]
          reply := .done }

/-! ## The command dispatcher (spec/42_command_dispatcher.md) -/

/-- 42 R170: CMD_READY clears `tpmIdle` and nothing else. -/
def Obligations.CmdReadyClearsIdle : Prop :=
  ∀ (size : Size) (page : Page),
    EncodedAs (.wrReqCmdReady size page) (busWord 1 size page 0x040#12 0x1#32) ∧
    AccessChecked (.wrReqCmdReady size page) size page 0x040#12 (busWord 1 size page 0x040#12 0x1#32) ∧
    ∀ s : State, BusReady s size page 0x040#12 →
      exec (.wrReqCmdReady size page) s =
        .next { s with
          regs := { s.regs with tpmIdle := false }
          hist := s.hist ++ [.bus .write page 0x040#12 size 0x1#32]
          reply := .done }

/-- 42 R171: GO_IDLE sets `tpmIdle` and nothing else, while busy too. -/
def Obligations.GoIdleSetsIdle : Prop :=
  ∀ (size : Size) (page : Page),
    EncodedAs (.wrReqGoIdle size page) (busWord 1 size page 0x040#12 0x2#32) ∧
    AccessChecked (.wrReqGoIdle size page) size page 0x040#12 (busWord 1 size page 0x040#12 0x2#32) ∧
    ∀ s : State, BusReady s size page 0x040#12 →
      exec (.wrReqGoIdle size page) s =
        .next { s with
          regs := { s.regs with tpmIdle := true }
          hist := s.hist ++ [.bus .write page 0x040#12 size 0x2#32]
          reply := .done }

/-- 42 R173: CANCEL is forwarded while a request is pending, from any page, and does not clear `start`; otherwise ignored.
That `start = 1` goes with a pending request is the invariant `DevInv.startIffPending`. -/
def Obligations.CancelIsForwardedWhileBusy : Prop :=
  ∀ (size : Size) (page : Page),
    EncodedAs (.wrCancelCancel size page) (busWord 1 size page 0x048#12 0x1#32) ∧
    AccessChecked (.wrCancelCancel size page) size page 0x048#12 (busWord 1 size page 0x048#12 0x1#32) ∧
    ∀ s : State, BusReady s size page 0x048#12 →
      (s.regs.start = false →
        exec (.wrCancelCancel size page) s = .next (ignoredPost s size page 0x048#12 0x1#32)) ∧
      (∀ r, s.regs.start = true → s.pending = some r →
        exec (.wrCancelCancel size page) s =
          .next { s with
            pending := some { r with cancelReq := true }
            hist := s.hist ++ [.bus .write page 0x048#12 size 0x1#32, .cancelFwd]
            reply := .done })

/-- 42 R175: INVOKE is accepted when nothing is pending and the page is the active locality; it sets `start`, creates the
request with the clamped length, and submits the bytes the buffer holds at that moment; otherwise it is silently ignored. -/
def Obligations.InvokeStartsOrIsIgnored : Prop :=
  ∀ (size : Size) (page : Page),
    EncodedAs (.wrStartInvoke size page) (busWord 1 size page 0x04C#12 0x1#32) ∧
    AccessChecked (.wrStartInvoke size page) size page 0x04C#12 (busWord 1 size page 0x04C#12 0x1#32) ∧
    ∀ s : State, BusReady s size page 0x04C#12 →
      (s.regs.start = true ∨ s.regs.locAssigned = false ∨ s.regs.activeLocality ≠ page →
        exec (.wrStartInvoke size page) s = .next (ignoredPost s size page 0x04C#12 0x1#32)) ∧
      (s.regs.start = false → s.regs.locAssigned = true → s.regs.activeLocality = page →
        let len := min (cmdLenOf s.cfg s.buf s.n).toNat s.n
        exec (.wrStartInvoke size page) s =
          .next { s with
            regs := { s.regs with start := true }
            pending := some { inLen := len, outCap := s.n, locality := page, cancelReq := false, inRaced := false }
            hist := s.hist ++ [.bus .write page 0x04C#12 size 0x1#32,
              .submit len s.n ((List.range len).map (fun k => readByte s.buf k))]
            reply := .done })

/-- 42 R177: the default length is the 32-bit field of buffer bytes 2 to 5, most significant byte first; any other backend's
is a free function of the buffer's `n` bytes; the length of an accepted INVOKE is that, at most `n`. -/
def Obligations.CommandLengthIsDeclaredAndClamped : Prop :=
  ∀ (cfg : Config) (buf : List Host.Cell) (n : Nat),
    (cfg.cmdLen = .tpmHeader →
      (cmdLenOf cfg buf n).toNat = (readByte buf 2).toNat * 2 ^ 24 + (readByte buf 3).toNat * 2 ^ 16
        + (readByte buf 4).toNat * 2 ^ 8 + (readByte buf 5).toNat) ∧
    (∀ id leastMax, cfg.cmdLen = .backend id leastMax →
      cmdLenOf cfg buf n = Config.backendCmdLen id ((List.range n).map (fun k => readByte buf k))) ∧
    ∀ s : State, s.cfg = cfg → s.buf = buf → s.n = n →
      ∀ (size : Size) (page : Page), BusReady s size page 0x04C#12 →
        s.regs.start = false → s.regs.locAssigned = true → s.regs.activeLocality = page →
          ∃ t r, exec (.wrStartInvoke size page) s = .next t ∧ t.pending = some r ∧
            r.inLen = min (cmdLenOf cfg buf n).toNat n ∧ r.outCap = n

/-- 60 R251, 42 R175: an INVOKE while busy or from a page that is not the active locality changes no device field; under the
invariants no page but 0 can start a command (60 R260). -/
def Obligations.OnlyPageZeroStartsCommands : Prop :=
  ∀ (s t : State) (size : Size) (page : Page), DevInv s → page ≠ 0#3 →
    exec (.wrStartInvoke size page) s = .next t → sameDevice s t

/-! ## Completion (spec/43_completion.md) -/

/-- 43 R200 with its frame: the backend writes one byte below the request's capacity; held otherwise. The premise on the
buffer is the invariant `DevInv.bufCanonical`. -/
def Obligations.BackendWritesResponseByte : Prop :=
  ∀ (index : Offset) (b : Byte),
    EncodedAs (.beWr index b) (BitVec.ofNat 64 (b.toNat * 2 ^ 32 + 2 * 2 ^ 28 + index.toNat)) ∧
    ∀ s : State,
      (s.terminated = true → exec (.beWr index b) s = .next (heldPost s)) ∧
      (s.pending = none → exec (.beWr index b) s = .next (heldPost s)) ∧
      (∀ r, s.pending = some r → r.outCap ≤ index.toNat → exec (.beWr index b) s = .next (heldPost s)) ∧
      (∀ r, s.terminated = false → s.pending = some r → index.toNat < r.outCap → memWf s.buf = true →
        ∃ m : List Host.Cell,
          exec (.beWr index b) s =
            .next { s with buf := m, hist := s.hist ++ [.beWrite index.toNat b], reply := .done } ∧
          readByte m index.toNat = b ∧ ∀ j, j ≠ index.toNat → readByte m j = readByte s.buf j)

/-- 43 R201: a successful completion clears `start` and destroys the request, and touches nothing else; held when nothing is pending. -/
def Obligations.CompletionOkClearsStart : Prop :=
  EncodedAs .beDoneOk 0x0000000030000000#64 ∧
  ∀ s : State,
    (s.terminated = true → exec .beDoneOk s = .next (heldPost s)) ∧
    (s.pending = none → exec .beDoneOk s = .next (heldPost s)) ∧
    (s.terminated = false → s.pending ≠ none →
      exec .beDoneOk s =
        .next { s with
          regs := { s.regs with start := false }
          pending := none
          hist := s.hist ++ [.complete 0#32]
          reply := .done })

/-- 43 R202: a failed completion also latches `tpmSts`, whatever its nonzero status. -/
def Obligations.CompletionFailLatchesError : Prop :=
  ∀ st : Word, st ≠ 0#32 →
    EncodedAs (.beDoneFail st) (BitVec.ofNat 64 (st.toNat * 2 ^ 32 + 3 * 2 ^ 28)) ∧
    ∀ s : State,
      (s.terminated = true → exec (.beDoneFail st) s = .next (heldPost s)) ∧
      (s.pending = none → exec (.beDoneFail st) s = .next (heldPost s)) ∧
      (s.terminated = false → s.pending ≠ none →
        exec (.beDoneFail st) s =
          .next { s with
            regs := { s.regs with start := false, tpmSts := true }
            pending := none
            hist := s.hist ++ [.complete st]
            reply := .done })

/-- 60 R257: every race of a completion that the rule lists, in both orders, for a completion of any status, any access size, any
page and any buffer offset: against a read of CTRL_START and of CTRL_STS, an INVOKE, a CANCEL, and a buffer write. A read is
recorded in the history with the value it returned; no read sees `start` cleared without the `tpmSts` of the same completion. -/
def Obligations.CompletionRacesHaveBothOrders : Prop :=
  ∀ (s : State) (r : Request) (done : Instr) (latch : Bool), DevInv s → s.terminated = false → s.pending = some r →
    (done = .beDoneOk ∧ latch = false ∨ ∃ st, st ≠ 0#32 ∧ done = .beDoneFail st ∧ latch = true) →
    (∃ t, exec done s = .next t ∧ t.pending = none ∧ t.regs.start = false ∧ t.regs.tpmSts = (latch || s.regs.tpmSts)) ∧
    (∀ (size : Size) (page : Page), page.toNat < 5 →
      (∃ t, execAll [.rdReg size page 0x04C#12, done] s = .next t ∧
        .bus .read page 0x04C#12 size 1#32 ∈ t.hist.drop s.hist.length) ∧
      (∃ t, execAll [done, .rdReg size page 0x04C#12] s = .next t ∧ t.reply = .data size 0#32) ∧
      (∃ t v, execAll [.rdReg size page 0x044#12, done] s = .next t ∧ v.getLsbD 0 = s.regs.tpmSts ∧
        .bus .read page 0x044#12 size v ∈ t.hist.drop s.hist.length) ∧
      (∃ t v, execAll [done, .rdReg size page 0x044#12] s = .next t ∧ v.getLsbD 0 = (latch || s.regs.tpmSts) ∧
        t.reply = .data size v) ∧
      (∃ t, execAll [.wrStartInvoke size page, done] s = .next t ∧ t.pending = none ∧ t.regs.start = false ∧
        ∀ len cap bytes, ¬ .submit len cap bytes ∈ t.hist.drop s.hist.length) ∧
      (activeLoc s.regs = some page →
        ∃ t q bytes, execAll [done, .wrStartInvoke size page] s = .next t ∧ t.regs.start = true ∧ t.pending = some q ∧
          q.locality = page ∧ .submit q.inLen q.outCap bytes ∈ t.hist.drop s.hist.length) ∧
      (∃ t, execAll [.wrCancelCancel size page, done] s = .next t ∧ .cancelFwd ∈ t.hist.drop s.hist.length) ∧
      (∃ t, execAll [done, .wrCancelCancel size page] s = .next t ∧ ¬ .cancelFwd ∈ t.hist.drop s.hist.length)) ∧
    ∀ (size : Size) (page : Page) (off : Offset) (v : Word), 0x80 ≤ off.toNat → BusReady s size page off →
      (∃ t, exec (.wrBuf size page off v) s = .next t ∧
        t.pending = some { r with inRaced := r.inRaced || decide (off.toNat - 0x80 < r.inLen) } ∧
        (∃ u, exec done t = .next u ∧ u.pending = none ∧ u.buf = t.buf) ∧
        ∀ (index : Offset) (b : Byte),
          off.toNat - 0x80 ≤ index.toNat → index.toNat < off.toNat - 0x80 + sizeBytes size →
            ∃ u, execAll [.beWr index b, done] t = .next u ∧ u.pending = none ∧ readByte u.buf index.toNat = b) ∧
      (∃ t, execAll [done, .wrBuf size page off v] s = .next t ∧ t.pending = none ∧
        ∀ k, k < sizeBytes size → (readByte t.buf (off.toNat - 0x80 + k)).toNat = v.toNat / 2 ^ (8 * k) % 2 ^ 8)

/-- 60 R257: the race of a backend byte write against a bus buffer read or write of the same byte, in both orders. -/
def Obligations.BackendByteRacesHaveBothOrders : Prop :=
  ∀ (s : State) (r : Request) (size : Size) (page : Page) (off : Offset) (v : Word) (k : Nat) (index : Offset) (b : Byte),
    DevInv s → s.pending = some r → 0x80 ≤ off.toNat → BusReady s size page off → k < sizeBytes size →
    index.toNat = off.toNat - 0x80 + k →
    let lane := fun w : Word => w.toNat / 2 ^ (8 * k) % 2 ^ 8
    (∃ t w, execAll [.rdBuf size page off, .beWr index b] s = .next t ∧
      .bus .read page off size w ∈ t.hist.drop s.hist.length ∧ lane w = (readByte s.buf index.toNat).toNat) ∧
    (∃ t w, execAll [.beWr index b, .rdBuf size page off] s = .next t ∧ t.reply = .data size w ∧ lane w = b.toNat) ∧
    (∃ t, execAll [.wrBuf size page off v, .beWr index b] s = .next t ∧ readByte t.buf index.toNat = b) ∧
    (∃ t, execAll [.beWr index b, .wrBuf size page off v] s = .next t ∧ (readByte t.buf index.toNat).toNat = lane v)

/-- 70 R293, 60 R259, R288: only the backend's completion ends a pending request: a step that leaves the slot empty recorded one. -/
def Obligations.OnlyACompletionEndsARequest : Prop :=
  ∀ s t : State, s.pending ≠ none → step s = .next t → t.pending = none →
    ∃ status, .complete status ∈ t.hist.drop s.hist.length

/-! ## Reset, save, restore (spec/44_reset_persistence.md) -/

/-- 44 R220, R222: the reset of an accepted configuration, with every register it leaves and both startup results, its holds, and
the refusal of BE_MAX < 6 with the default header format. What a backend's own format changes of the refusal is
`ConfigurationsBelowTheirBoundAreRefused`. -/
def Obligations.HostResetReinitializes : Prop :=
  EncodedAs .hostReset 0x0000000040000000#64 ∧
  ∀ s : State,
    (s.terminated = true → exec .hostReset s = .next (heldPost s)) ∧
    (s.pending ≠ none → exec .hostReset s = .next (heldPost s)) ∧
    (s.terminated = false → s.pending = none → s.cfg.cmdLen = .tpmHeader → s.cfg.beMax < 6 →
      exec .hostReset s = .next (refusedPost s .configBeMax)) ∧
    (s.terminated = false → s.pending = none → 6 ≤ s.cfg.beMax →
      (∀ id leastMax, s.cfg.cmdLen = .backend id leastMax → leastMax ≤ s.cfg.beMax) →
      let size := min s.cfg.beMax 0xF80
      let addr := s.cfg.baseAddr + 0x80#64
      let afterStartup := fun ok : Bool =>
        { s with
          regs := { tpmEstablished := true, locAssigned := false, activeLocality := 0#3, tpmRegValidSts := true,
                    granted := false, beenSeized := false, intfId := s.cfg.intfIdValue, intfId2 := s.cfg.intfId2Value,
                    tpmSts := false, tpmIdle := true, start := false,
                    cmdSize := BitVec.ofNat 32 size, cmdAddrLow := addr.extractLsb' 0 32, cmdAddrHigh := addr.extractLsb' 32 32,
                    rspSize := BitVec.ofNat 32 size, rspAddrLow := addr.extractLsb' 0 32, rspAddrHigh := addr.extractLsb' 32 32 }
          buf := []
          n := size
          hist := s.hist ++ [.beReset, .startup size ok]
          draws := if s.startupArg = none then s.draws + 1 else s.draws
          reply := .done }
      exec .hostReset s =
        .next (if startupResult s then afterStartup true
               else faultPost { afterStartup false with terminated := true } .terminated 0x0000000040000000#64))

/-- 44 R221, in the model's reading (DEDUCED, notes/assumptions/15): with any header format BE_MAX < 6 is refused, and with a
backend's own format BE_MAX below the bound stated with that function is refused too; nothing else is changed, and no reset of
any other configuration is refused. -/
def Obligations.ConfigurationsBelowTheirBoundAreRefused : Prop :=
  ∀ s : State, s.terminated = false → s.pending = none →
    (s.cfg.beMax < 6 → exec .hostReset s = .next (refusedPost s .configBeMax)) ∧
    (∀ id leastMax, s.cfg.cmdLen = .backend id leastMax → s.cfg.beMax < leastMax →
      exec .hostReset s = .next (refusedPost s .configBeMax)) ∧
    (6 ≤ s.cfg.beMax → (∀ id leastMax, s.cfg.cmdLen = .backend id leastMax → leastMax ≤ s.cfg.beMax) →
      ∃ t, exec .hostReset s = .next t ∧ t.refused = s.refused ∧ t.n = min s.cfg.beMax 0xF80)

/-- 44 R224, R225: a save returns the 32 words of the word view, the buffer and its size, and changes no device field; held while busy. -/
def Obligations.HostSaveReturnsSnapshot : Prop :=
  EncodedAs .hostSave 0x0000000050000000#64 ∧
  ∀ s : State,
    (s.terminated = true → exec .hostSave s = .next (heldPost s)) ∧
    (s.pending ≠ none → exec .hostSave s = .next (heldPost s)) ∧
    (s.terminated = false → s.pending = none →
      exec .hostSave s =
        .next { s with
          hist := s.hist ++ [.save]
          reply := .snapshot
            { words := (List.range 32).map (fun j => wordAt s.regs (BitVec.ofNat 12 (4 * j)))
              bytes := { len := s.n, cells := s.buf }
              n := s.n } })

/-- 44 R226: a restore is a reset and then an overwrite of four flags and the buffer; an inadmissible snapshot is refused;
held while busy. -/
def Obligations.HostRestoreOverwrites : Prop :=
  EncodedAs .hostRestore 0x0000000060000000#64 ∧
  ∀ s : State,
    (s.terminated = true → exec .hostRestore s = .next (heldPost s)) ∧
    (s.pending ≠ none → exec .hostRestore s = .next (heldPost s)) ∧
    (s.terminated = false → s.pending = none →
      ∀ snap, s.snapArg = some snap →
        (admissible s.cfg snap = false → exec .hostRestore s = .next (refusedPost s .restoreSnapshot)) ∧
        (admissible s.cfg snap = true → accepted s.cfg →
          let size := min s.cfg.beMax 0xF80
          let draws := if s.startupArg = none then s.draws + 1 else s.draws
          exec .hostRestore s =
            .next (if startupResult s then
              { s with
                regs := { (State.init s.cfg).regs with
                  locAssigned := (snap.words.getD 0 0#32).getLsbD 1
                  granted := (snap.words.getD 3 0#32).getLsbD 0
                  tpmSts := (snap.words.getD 17 0#32).getLsbD 0
                  tpmIdle := (snap.words.getD 17 0#32).getLsbD 1 }
                buf := snap.bytes.cells
                n := size
                hist := s.hist ++ [.beReset, .startup size true, .restore]
                draws := draws
                reply := .done }
            else
              faultPost
                { s with
                  regs := (State.init s.cfg).regs
                  buf := []
                  n := size
                  hist := s.hist ++ [.beReset, .startup size false]
                  draws := draws
                  terminated := true
                  reply := .done } .terminated 0x0000000060000000#64)))

/-- The model's choice (notes/assumptions/16; 44 R226 always has a snapshot operand): a restore with none supplied is refused as
one of an inadmissible snapshot is. -/
def Obligations.RestoreWithoutSnapshotIsRefused : Prop :=
  ∀ s : State, s.terminated = false → s.pending = none → s.snapArg = none →
    exec .hostRestore s = .next (refusedPost s .restoreSnapshot)

/-- 44 R221, R226 (the model's reading, notes/assumptions/8): in a configuration whose resets are refused, a restore of an
admissible snapshot is refused for the same reason. -/
def Obligations.RestoreNeedsAnAcceptedConfiguration : Prop :=
  ∀ (s : State) (snap : Snapshot), s.terminated = false → s.pending = none → s.snapArg = some snap →
    admissible s.cfg snap = true → ¬ accepted s.cfg → exec .hostRestore s = .next (refusedPost s .configBeMax)

/-- 44 R227: the admissible snapshots, condition by condition (`memWf` and `memBelow` say that the sparse byte string is one, notes/assumptions/7). -/
def Obligations.AdmissibleSnapshots : Prop :=
  ∀ (cfg : Config) (snap : Snapshot),
    admissible cfg snap = true ↔
      (snap.n = min cfg.beMax 0xF80 ∧ snap.bytes.len = snap.n ∧
        memWf snap.bytes.cells = true ∧ memBelow snap.bytes.cells snap.bytes.len = true ∧
        snap.words.length = 32 ∧
        (snap.words[0]? = some 0x81#32 ∨ snap.words[0]? = some 0x83#32) ∧
        (∀ w : Word, snap.words[0]? = some w → snap.words[3]? = some ((w >>> 1) &&& 1#32)) ∧
        (∃ w : Word, snap.words[17]? = some w ∧ w.toNat ≤ 3) ∧
        snap.words[19]? = some 0#32 ∧
        ∀ j, j < 32 → j ≠ 0 → j ≠ 3 → j ≠ 17 → j ≠ 19 →
          snap.words[j]? = some (wordAt (State.init cfg).regs (BitVec.ofNat 12 (4 * j))))

/-- 44 R226, D18: restoring the snapshot that a save took, into any device of the same configuration that takes a restore,
gives back exactly the saved device. -/
def Obligations.RestoreUndoesSave : Prop :=
  ∀ s : State, DevInv s → s.terminated = false → s.pending = none →
    ∃ u snap, exec .hostSave s = .next u ∧ u.reply = .snapshot snap ∧ sameDevice s u ∧
      ∀ r : State, r.cfg = s.cfg → r.terminated = false → r.pending = none →
        r.snapArg = some snap → startupResult r = true →
          ∃ t, exec .hostRestore r = .next t ∧ sameDevice s t

/-- 44 R227 (the set it describes): a save's snapshot is admissible, and every admissible snapshot of an accepted configuration
is the one a save takes of a state that a run reaches, namely the state its restore gives. -/
def Obligations.AdmissibleMeansSavable : Prop :=
  (∀ s : State, DevInv s → s.pending = none → admissible s.cfg (takeSnapshot s) = true) ∧
  ∀ (cfg : Config) (snap : Snapshot), accepted cfg → admissible cfg snap = true →
    ∃ t, Reachable cfg t ∧ t.terminated = false ∧ t.pending = none ∧ takeSnapshot t = snap

/-! ## Whole-machine rules -/

/-- 10 R45: the invariants hold in the launch state of every accepted configuration, and the history follows the protocol there. -/
def Obligations.InvariantsHoldAtLaunch : Prop :=
  (∀ cfg : Config, accepted cfg → DevInv (State.init cfg) ∧ HistInv (State.init cfg)) ∧ DevInv State.reset

/-- 10 R45: every step, from any state that meets the invariants, gives a state that meets them. -/
def Obligations.EveryStepKeepsTheInvariants : Prop :=
  ∀ s t : State, DevInv s → step s = .next t → DevInv t

/-- 43 R203, R204, 60 R259: every step keeps the history on the protocol: a request is submitted only when none is in flight,
completed once, response bytes and cancels fall only between, and resets, saves and restores only when drained. -/
def Obligations.EveryStepKeepsTheProtocol : Prop :=
  ∀ s t : State, DevInv s → HistInv s → step s = .next t → HistInv t

/-- 10 R45, 43 R203: in every state of every run of an accepted configuration, the invariants hold and the submissions and
completions in the history alternate. -/
def Obligations.ReachableStatesAreSound : Prop :=
  ∀ (cfg : Config) (s : State), Reachable cfg s →
    accepted cfg ∧ s.cfg = cfg ∧ DevInv s ∧ busyAfter s.hist = some s.pending.isSome

/-- 10 R39: which transactions can set or clear each flag; no other does. -/
def Obligations.FlagsHaveNoOtherWriters : Prop :=
  ∀ (s t : State) (i : Instr), exec i s = .next t →
    (s.regs.start = false → t.regs.start = true → ∃ size page, i = .wrStartInvoke size page) ∧
    (s.regs.start = true → t.regs.start = false →
      i = .beDoneOk ∨ (∃ st, i = .beDoneFail st) ∨ i = .hostReset ∨ i = .hostRestore) ∧
    (s.regs.tpmSts = false → t.regs.tpmSts = true → (∃ st, i = .beDoneFail st) ∨ i = .hostRestore) ∧
    (s.regs.tpmSts = true → t.regs.tpmSts = false → i = .hostReset ∨ i = .hostRestore) ∧
    (s.regs.tpmIdle = false → t.regs.tpmIdle = true →
      (∃ size page, i = .wrReqGoIdle size page) ∨ i = .hostReset ∨ i = .hostRestore) ∧
    (s.regs.tpmIdle = true → t.regs.tpmIdle = false → (∃ size page, i = .wrReqCmdReady size page) ∨ i = .hostRestore) ∧
    (s.regs.locAssigned = false → t.regs.locAssigned = true →
      (∃ size page, i = .wrLocRequest size page) ∨ i = .hostRestore) ∧
    (s.regs.locAssigned = true → t.regs.locAssigned = false →
      (∃ size page, i = .wrLocRelinquish size page) ∨ i = .hostReset ∨ i = .hostRestore) ∧
    (s.regs.granted = false → t.regs.granted = true →
      (∃ size page, i = .wrLocRequest size page) ∨ i = .hostRestore) ∧
    (s.regs.granted = true → t.regs.granted = false →
      (∃ size page, i = .wrLocRelinquish size page) ∨ i = .hostReset ∨ i = .hostRestore) ∧
    (s.regs.beenSeized = false → t.regs.beenSeized = false) ∧
    (s.regs.beenSeized = true → t.regs.beenSeized = false →
      (∃ size page, i = .wrLocRequest size page) ∨ i = .hostReset ∨ i = .hostRestore) ∧
    (s.regs.tpmEstablished = true → t.regs.tpmEstablished = true) ∧
    (s.regs.tpmEstablished = false → t.regs.tpmEstablished = true → i = .hostReset ∨ i = .hostRestore) ∧
    (s.regs.tpmRegValidSts = true → t.regs.tpmRegValidSts = true) ∧
    (s.regs.tpmRegValidSts = false → t.regs.tpmRegValidSts = true → i = .hostReset ∨ i = .hostRestore)

/-- 10 R28, R29, R34 to R37, R24: the identification, size and address registers, `activeLocality` and the negotiated size
are written by HOST.RESET and HOST.RESTORE only, and the configuration by nothing. -/
def Obligations.IdentificationAndGeometryAreFixed : Prop :=
  ∀ (s t : State) (i : Instr), exec i s = .next t → t.cfg = s.cfg ∧
    (i ≠ .hostReset → i ≠ .hostRestore →
      t.regs.intfId = s.regs.intfId ∧ t.regs.intfId2 = s.regs.intfId2 ∧
      t.regs.cmdSize = s.regs.cmdSize ∧ t.regs.rspSize = s.regs.rspSize ∧
      t.regs.cmdAddrLow = s.regs.cmdAddrLow ∧ t.regs.cmdAddrHigh = s.regs.cmdAddrHigh ∧
      t.regs.rspAddrLow = s.regs.rspAddrLow ∧ t.regs.rspAddrHigh = s.regs.rspAddrHigh ∧
      t.regs.activeLocality = s.regs.activeLocality ∧ t.n = s.n)

/-- 20 R79, 43 R203 (frame of everything that stores nothing): only WR.BUF, BE.WR, HOST.RESET and HOST.RESTORE can change a byte
of the buffer; only INVOKE, CANCEL, WR.BUF and the completions the request slot. -/
def Obligations.OnlyStoresChangeTheBuffer : Prop :=
  ∀ (s t : State) (i : Instr), exec i s = .next t →
    ((∃ j, readByte t.buf j ≠ readByte s.buf j) →
      (∃ size page off v, i = .wrBuf size page off v) ∨ (∃ index b, i = .beWr index b) ∨ i = .hostReset ∨ i = .hostRestore) ∧
    (t.pending ≠ s.pending →
      (∃ size page, i = .wrStartInvoke size page) ∨ (∃ size page, i = .wrCancelCancel size page) ∨
      (∃ size page off v, i = .wrBuf size page off v) ∨ i = .beDoneOk ∨ (∃ st, i = .beDoneFail st))

/-- 20 R79: a bus read changes no device field, and a bus write changes one only at offset 0x08, 0x40, 0x48 or 0x4C with a token,
or in the data buffer. -/
def Obligations.BusSideEffectsAreExactlyTheCommands : Prop :=
  ∀ (s t : State) (i : Instr) (size : Size) (page : Page) (off : Offset),
    busAccess i = some (size, page, off) → wellFormed i = true → exec i s = .next t → ¬ sameDevice s t →
      (encode i).toNat / 2 ^ 28 % 16 = 1 ∧
      (0x80 ≤ off.toNat ∨
       (off = 0x008#12 ∧ ((encode i).toNat / 2 ^ 32 = 1 ∨ (encode i).toNat / 2 ^ 32 = 2)) ∨
       (off = 0x040#12 ∧ ((encode i).toNat / 2 ^ 32 = 1 ∨ (encode i).toNat / 2 ^ 32 = 2)) ∨
       (off = 0x048#12 ∧ (encode i).toNat / 2 ^ 32 = 1) ∨
       (off = 0x04C#12 ∧ (encode i).toNat / 2 ^ 32 = 1))

/-- 20 R71: the pages share one device: a read answers the same through every page of the window. -/
def Obligations.EveryPageReadsTheSame : Prop :=
  ∀ (s : State) (size : Size) (p q : Page) (off : Offset), p.toNat < 5 → q.toNat < 5 →
    ∃ t u t' u',
      exec (.rdReg size p off) s = .next t ∧ exec (.rdReg size q off) s = .next u ∧ t.reply = u.reply ∧
      exec (.rdBuf size p off) s = .next t' ∧ exec (.rdBuf size q off) s = .next u' ∧ t'.reply = u'.reply

/-- 20 R80: reads, REQUEST_ACCESS, RELINQUISH, CMD_READY, GO_IDLE, CANCEL and buffer writes leave the same device when repeated;
a repeated INVOKE submits nothing. The premises are invariants. -/
def Obligations.RepeatedAccessesAreIdempotent : Prop :=
  ∀ (s t u : State) (i : Instr), DevInv s → agentOf i = .bus → wellFormed i = true →
    exec i s = .next t → exec i t = .next u →
      u.regs = t.regs ∧ u.n = t.n ∧ u.pending = t.pending ∧ (∀ j, readByte u.buf j = readByte t.buf j) ∧
      ∀ a b bytes, t.pending ≠ none → ¬ Event.submit a b bytes ∈ u.hist.drop t.hist.length

/-- 10 R43, R44, 60 R253, R254, R258: over any step the fault record and the history only grow, and the marks `refused` and
`terminated` are never cleared, not by a reset either. -/
def Obligations.FaultsAndMarksAreNeverUndone : Prop :=
  ∀ s t : State, step s = .next t →
    (∃ fs, t.faults = s.faults ++ fs) ∧ (∃ es, t.hist = s.hist ++ es) ∧
    (s.refused = true → t.refused = true) ∧ (s.terminated = true → t.terminated = true) ∧ t.cfg = s.cfg

/-- 60 R266, R259: after termination no transaction of any agent is enabled. -/
def Obligations.TerminatedDeviceTakesNoStep : Prop :=
  ∀ (i : Instr) (s : State), s.terminated = true → exec i s = .next (heldPost s)

/-- 10 R46, 42 R178: the interface state after each transaction other than a restore, from a device that is not terminated:
the transactions of R178's table move it as the table says, and everything else leaves it. -/
def Obligations.InterfaceStateTransitions : Prop :=
  ∀ (s t : State) (i : Instr), DevInv s → s.terminated = false → i ≠ .hostRestore → exec i s = .next t →
    let readies := ∃ size page, i = .wrReqCmdReady size page ∧ BusReady s size page 0x040#12
    let idles := ∃ size page, i = .wrReqGoIdle size page ∧ BusReady s size page 0x040#12
    let starts := ∃ size page, i = .wrStartInvoke size page ∧ BusReady s size page 0x04C#12 ∧ activeLoc s.regs = some page
    let completes := i = .beDoneOk ∨ ∃ st, i = .beDoneFail st
    (readies → ifState t = if ifState s = .busy then .busy else .ready) ∧
    (idles → ifState t = if ifState s = .busy then .busy else .idle) ∧
    (starts → ifState t = .busy ∧ t.regs.tpmIdle = s.regs.tpmIdle) ∧
    (completes → ifState t = if s.regs.tpmIdle then .idle else .ready) ∧
    (i = .hostReset →
      ifState t = if ifState s = .busy then .busy else if startupResult s then .idle else .terminated) ∧
    (¬ readies → ¬ idles → ¬ starts → ¬ completes → i ≠ .hostReset → ifState t = ifState s)

/-- 10 R31, 70 R287: the fatal latch stays through every step that is no reset or restore; 10 R45 item 7. -/
def Obligations.FatalLatchNeedsAReset : Prop :=
  ∀ (s t : State), s.regs.tpmSts = true → step s = .next t →
    (∀ o rest, s.offers = o :: rest → decode o.word ≠ .ok .hostReset ∧ decode o.word ≠ .ok .hostRestore) →
      t.regs.tpmSts = true

/-! ## Runs of a driver program (spec/70_reset_and_hazards.md R292) -/

/-- 70 R292, 10 R45: every state that a run from a launch state passes has the run's configuration, meets the invariants and has a
history that follows the protocol, and is clean if a later state of the run is; where the run ends, `start` is clear and every
request submitted is completed. -/
def Obligations.RunsKeepTheInvariants : Prop :=
  ∀ (cfg : Config) (P : List DriverOp) (s : State), isLaunch cfg s →
    (∀ c : RunPoint, passes P s c →
      c.state.cfg = cfg ∧ DevInv c.state ∧ HistInv c.state ∧
        ∀ d : RunPoint, passes c.todo c.state d → clean d.state = true → clean c.state = true) ∧
    ∀ t : State, endsIn P s t → isLaunch cfg t ∧ t.regs.start = false ∧ busyAfter t.hist = some false

/-- 70 R292: a run has no step past its end, and short of it it is never stuck while the device is not terminated: the driver's
next transaction takes its step, and a pending request can be completed. -/
def Obligations.RunsStopOnlyAtTheirEnd : Prop :=
  (∀ c d : RunPoint, c.ended → ¬ Move c d) ∧
  (∀ (op : DriverOp) (rest : List DriverOp) (s : State), s.terminated = false → isBusWord (driverWord op) →
    ∃ t, takes s ⟨driverWord op, none, none⟩ t ∧ Move ⟨op :: rest, s⟩ ⟨if finishes op t then rest else op :: rest, t⟩) ∧
  ∀ (P : List DriverOp) (s : State), s.terminated = false → s.pending ≠ none →
    ∃ t, Move ⟨P, s⟩ ⟨P, t⟩ ∧ t.pending = none

/-- 70 R288: a stalled backend is a hang: while a request is pending, a poll loop through any page of the window can go on for
ever, every poll reading 1 and the request pending all along. -/
def Obligations.AStalledBackendIsAHang : Prop :=
  ∀ (s : State) (P : List DriverOp) (page : Page), DevInv s → s.terminated = false → s.pending ≠ none → page.toNat < 5 →
    ∃ run : Nat → RunPoint, run 0 = ⟨.pollLoop page :: P, s⟩ ∧
      ∀ k, Move (run k) (run (k + 1)) ∧ (run k).todo = .pollLoop page :: P ∧
        (run k).state.pending = s.pending ∧ (run (k + 1)).state.reply = .data .b4 1#32
end

