-- ==== Sys2Proof/Laws/Encoding.lean ====
section
/-! SUPPORT. The fields of a packed word, the packing of a word's fields, and the size codes. -/

namespace Sys2Proof

open Sys2Proof.Machine

/-- An append is a sum of shifted parts. -/
theorem append_toNat {m n : Nat} (a : BitVec m) (b : BitVec n) :
    (a ++ b).toNat = a.toNat * 2 ^ n + b.toNat := by
  rw [BitVec.toNat_append, ← Nat.shiftLeft_add_eq_or_of_lt b.isLt, Nat.shiftLeft_eq]

section Pack

variable (d : Word) (op : BitVec 4) (sz : BitVec 2) (pg : Page) (off : Offset)

/-- The number a packed word is (30 R112). -/
theorem pack_toNat :
    (pack d op sz pg off).toNat =
      d.toNat * 2 ^ 32 + op.toNat * 2 ^ 28 + sz.toNat * 2 ^ 26 + pg.toNat * 2 ^ 12 + off.toNat := by
  have h : (pack d op sz pg off).toNat
      = (d ++ op ++ sz ++ 0#11 ++ pg ++ off : BitVec (32 + 4 + 2 + 11 + 3 + 12)).toNat := rfl
  rw [h]
  simp only [append_toNat]
  simp
  omega

theorem txData_pack : txData (pack d op sz pg off) = d := by
  apply BitVec.eq_of_toNat_eq
  have := pg.isLt; have := off.isLt; have := sz.isLt; have := op.isLt; have := d.isLt
  simp only [txData, BitVec.extractLsb'_toNat, pack_toNat, Nat.shiftRight_eq_div_pow]
  omega

theorem txOp_pack : txOp (pack d op sz pg off) = op := by
  apply BitVec.eq_of_toNat_eq
  have := pg.isLt; have := off.isLt; have := sz.isLt; have := op.isLt; have := d.isLt
  simp only [txOp, BitVec.extractLsb'_toNat, pack_toNat, Nat.shiftRight_eq_div_pow]
  omega

theorem txSize_pack : txSize (pack d op sz pg off) = sz := by
  apply BitVec.eq_of_toNat_eq
  have := pg.isLt; have := off.isLt; have := sz.isLt; have := op.isLt; have := d.isLt
  simp only [txSize, BitVec.extractLsb'_toNat, pack_toNat, Nat.shiftRight_eq_div_pow]
  omega

theorem txRsvd_pack : txRsvd (pack d op sz pg off) = 0#11 := by
  apply BitVec.eq_of_toNat_eq
  have := pg.isLt; have := off.isLt; have := sz.isLt; have := op.isLt; have := d.isLt
  simp only [txRsvd, BitVec.extractLsb'_toNat, pack_toNat, Nat.shiftRight_eq_div_pow, BitVec.toNat_ofNat]
  omega

theorem txPage_pack : txPage (pack d op sz pg off) = pg := by
  apply BitVec.eq_of_toNat_eq
  have := pg.isLt; have := off.isLt; have := sz.isLt; have := op.isLt; have := d.isLt
  simp only [txPage, BitVec.extractLsb'_toNat, pack_toNat, Nat.shiftRight_eq_div_pow]
  omega

theorem txOff_pack : txOff (pack d op sz pg off) = off := by
  apply BitVec.eq_of_toNat_eq
  have := pg.isLt; have := off.isLt; have := sz.isLt; have := op.isLt; have := d.isLt
  simp only [txOff, BitVec.extractLsb'_toNat, pack_toNat, Nat.shiftRight_eq_div_pow]
  omega

end Pack

/-- A word whose reserved field is 0 is the packing of its fields. -/
theorem pack_fields (t : TxWord) (h : txRsvd t = 0#11) :
    pack (txData t) (txOp t) (txSize t) (txPage t) (txOff t) = t := by
  apply BitVec.eq_of_toNat_eq
  have h' := congrArg BitVec.toNat h
  have := t.isLt
  simp only [txRsvd, txData, txOp, txSize, txPage, txOff, BitVec.extractLsb'_toNat, pack_toNat,
    Nat.shiftRight_eq_div_pow, BitVec.toNat_ofNat] at h' ⊢
  omega

@[simp] theorem sizeOfCode_sizeCode (size : Size) : sizeOfCode (sizeCode size) = some size := by
  cases size <;> rfl

/-- A code that stands for a size is that size's code. -/
theorem sizeCode_of_sizeOfCode {c : BitVec 2} {size : Size} (h : sizeOfCode c = some size) : sizeCode size = c := by
  revert h
  simp only [sizeOfCode]
  split
  · rintro ⟨⟩; simp [sizeCode, *]
  · split
    · rintro ⟨⟩; simp [sizeCode, *]
    · split
      · rintro ⟨⟩; simp [sizeCode, *]
      · intro h; cases h

/-- The bytes of an access are `1 << SIZE` (30 R103). -/
theorem sizeBytes_eq_shift (size : Size) : sizeBytes size = 1 <<< (sizeCode size).toNat := by
  cases size <;> rfl

/-- The written value fits the access its size code stands for. -/
theorem txFits_iff {t : TxWord} {size : Size} (h : sizeCode size = txSize t) :
    txFits t = true ↔ (txData t).toNat < 2 ^ (8 * sizeBytes size) := by
  rw [txFits, decide_eq_true_eq, ← h]
  cases size <;> exact Iff.rfl

/-- A word passes the checks of 30 R104 exactly when every one of them holds. -/
theorem checkWord_none_iff {t : TxWord} :
    checkWord t = none ↔
      (txOp t).toNat ≤ 6 ∧ txRsvd t = 0#11 ∧
      ((txOp t).toNat ≤ 1 → txSize t ≠ 3#2) ∧ (1 < (txOp t).toNat → txSize t = 0#2) ∧
      ((txOp t).toNat = 0 → txData t = 0#32) ∧ ((txOp t).toNat = 1 → txFits t = true) ∧
      ((txOp t).toNat = 2 → (txData t).toNat < 0x100 ∧ txPage t = 0#3) ∧
      ((txOp t).toNat = 3 → txPage t = 0#3 ∧ txOff t = 0#12) ∧
      (4 ≤ (txOp t).toNat → txData t = 0#32 ∧ txPage t = 0#3 ∧ txOff t = 0#12) := by
  simp only [checkWord, gt_iff_lt, ge_iff_le]
  generalize (txOp t).toNat = op
  generalize txFits t = fits
  split_ifs with h1 h2 h3 h4 h5 h6 h7 h8 h9
  · simp only [false_iff]; intro h; omega
  · simp only [false_iff]; intro h; exact h2 h.2.1
  · simp only [false_iff]; intro h; exact h.2.2.1 h3.1 h3.2
  · simp only [false_iff]; intro h; exact h4.2 (h.2.2.2.1 h4.1)
  · simp only [false_iff]; intro h; exact h5.2 (h.2.2.2.2.1 h5.1)
  · simp only [false_iff]; intro h
    have := h.2.2.2.2.2.1 h6.1
    rw [h6.2] at this
    cases this
  · simp only [false_iff]; intro h; exact h7.2 (h.2.2.2.2.2.2.1 h7.1)
  · simp only [false_iff]; intro h; exact h8.2 (h.2.2.2.2.2.2.2.1 h8.1)
  · simp only [false_iff]; intro h; exact h9.2 (h.2.2.2.2.2.2.2.2 h9.1)
  · simp only [true_iff]
    refine ⟨by omega, by simpa using h2, fun h e => h3 ⟨h, e⟩, fun h => ?_, fun h => ?_, fun h => ?_, fun h => ?_,
      fun h => ?_, fun h => ?_⟩
    · by_contra e; exact h4 ⟨h, e⟩
    · by_contra e; exact h5 ⟨h, e⟩
    · by_contra e; exact h6 ⟨h, by simpa using e⟩
    · by_contra e; exact h7 ⟨h, e⟩
    · by_contra e; exact h8 ⟨h, e⟩
    · by_contra e; exact h9 ⟨h, e⟩

/-- A word that decodes passed every check. -/
theorem checkWord_of_decode {t : TxWord} {i : Instr} (h : decode t = .ok i) : checkWord t = none := by
  unfold decode at h
  cases hc : checkWord t with
  | none => rfl
  | some c => rw [hc] at h; cases h

/-- `&&&` acts on the two parts of a concatenation. -/
theorem append_and_append {m n : Nat} (a b : BitVec m) (c d : BitVec n) :
    (a ++ c) &&& (b ++ d) = (a &&& b) ++ (c &&& d) := by
  ext i hi
  simp only [BitVec.getElem_and, BitVec.getElem_append]
  split <;> simp

/-- A concatenation determines its two parts. -/
theorem append_inj_iff {m n : Nat} {a b : BitVec m} {c d : BitVec n} : a ++ c = b ++ d ↔ a = b ∧ c = d := by
  constructor
  · intro h
    have h := congrArg BitVec.toNat h
    rw [append_toNat, append_toNat] at h
    have hc := c.isLt
    have hd := d.isLt
    have h1 : a.toNat = b.toNat := by
      have e1 : (a.toNat * 2 ^ n + c.toNat) / 2 ^ n = a.toNat := by
        rw [Nat.mul_comm, Nat.mul_add_div (by positivity), Nat.div_eq_of_lt hc, Nat.add_zero]
      have e2 : (b.toNat * 2 ^ n + d.toNat) / 2 ^ n = b.toNat := by
        rw [Nat.mul_comm, Nat.mul_add_div (by positivity), Nat.div_eq_of_lt hd, Nat.add_zero]
      rw [← e1, ← e2, h]
    exact ⟨BitVec.eq_of_toNat_eq h1, BitVec.eq_of_toNat_eq (by rw [h1] at h; omega)⟩
  · rintro ⟨rfl, rfl⟩
    rfl

/-- The two halves of a 64-bit address (10 R35, R37). -/
theorem halves_of_append {hi lo : Word} {a : BitVec 64} (h : hi ++ lo = a) :
    lo = a.extractLsb' 0 32 ∧ hi = a.extractLsb' 32 32 := by
  subst h
  have h : (hi ++ lo).toNat = hi.toNat * 2 ^ 32 + lo.toNat := append_toNat hi lo
  have := hi.isLt
  have := lo.isLt
  constructor <;> apply BitVec.eq_of_toNat_eq <;>
    rw [BitVec.extractLsb'_toNat, h, Nat.shiftRight_eq_div_pow] <;> omega

end Sys2Proof
end

