-- ==== Sys2Proof/Laws/Invariant.lean ====
section
/-! SUPPORT. The invariants read five fields only, the protocol two: what a change of the model's bookkeeping leaves of them. -/

namespace Sys2Proof.Safety

open Sys2Proof Sys2Proof.Machine

/-- States with the same configuration and device fields meet the invariants alike. -/
theorem devInv_congr {s t : State} (hc : t.cfg = s.cfg) (hd : sameDevice s t) (h : DevInv s) : DevInv t := by
  obtain ⟨a1, a2, a3, a4, a5, a6, a7, a8, a9, a10, a11, a12, a13, a14, a15, a16, a17⟩ := h
  obtain ⟨hr, hb, hn, hp⟩ := hd
  obtain ⟨c, r, b, n, p, _, _, _, _, _, _, _, _, _⟩ := t
  simp only at hc hr hb hn hp
  subst hc hr hb hn hp
  exact ⟨a1, a2, a3, a4, a5, a6, a7, a8, a9, a10, a11, a12, a13, a14, a15, a16, a17⟩

/-- Appended events that lead from the old request slot to the new one keep the protocol. -/
theorem histInv_append {s t : State} (es : List Event) (hh : t.hist = s.hist ++ es)
    (he : es.foldl trackBusy (some s.pending.isSome) = some t.pending.isSome) (h : HistInv s) : HistInv t := by
  unfold HistInv busyAfter at *
  rw [hh, List.foldl_append, h, he]

/-- Whether an access is ready depends on the device's presence and size only. -/
theorem busReady_congr {s t : State} {size : Size} {page : Page} {off : Offset} (ht : t.terminated = s.terminated)
    (hn : t.n = s.n) (h : BusReady s size page off) : BusReady t size page off := by
  unfold BusReady at *
  rw [ht, hn]
  exact h

/-- `sameDevice` is reflexive. -/
theorem sameDevice_refl (s : State) : sameDevice s s := ⟨rfl, rfl, rfl, rfl⟩

end Sys2Proof.Safety
end

