-- ==== Sys2Proof/Laws/Map.lean ====
section
/-! SUPPORT. What the checks on operands mean, and that the command offsets are four different ones. -/

namespace Sys2Proof.Machine

/-- The value fits the access. -/
theorem fitsSize_iff {size : Size} {v : Word} : fitsSize size v = true ↔ v.toNat < 2 ^ (8 * sizeBytes size) := by
  rw [fitsSize, decide_eq_true_eq]

/-- A value below 256 fits every access, so every token does (30 R106). -/
theorem fitsSize_of_lt {size : Size} {v : Word} (h : v.toNat < 2 ^ 8) : fitsSize size v = true := by
  refine fitsSize_iff.2 (lt_of_lt_of_le h (Nat.pow_le_pow_right (by decide) ?_))
  cases size <;> decide

theorem isRegOffset_iff {off : Offset} : isRegOffset off = true ↔ off.toNat < 0x80 := by
  rw [isRegOffset, decide_eq_true_eq, bufOff]

theorem isRegOffset_false_iff {off : Offset} : isRegOffset off = false ↔ 0x80 ≤ off.toNat := by
  rw [isRegOffset, decide_eq_false_iff_not, bufOff, not_lt]

/-- An offset of the buffer is no command offset. -/
theorem isCommandOffset_of_buffer {off : Offset} (h : 0x80 ≤ off.toNat) : isCommandOffset off = false := by
  simp only [isCommandOffset, Bool.or_eq_false_iff, beq_eq_false_iff_ne]
  refine ⟨⟨⟨?_, ?_⟩, ?_⟩, ?_⟩ <;> rintro rfl <;> exact absurd h (by decide)

theorem isCommandOffset_false_iff {off : Offset} :
    isCommandOffset off = false ↔
      off ≠ offLocCtrl ∧ off ≠ offCtrlReq ∧ off ≠ offCtrlCancel ∧ off ≠ offCtrlStart := by
  simp [isCommandOffset, and_assoc]

/-- An access has at least one byte, and at most four. -/
theorem sizeBytes_bounds (size : Size) : 1 ≤ sizeBytes size ∧ sizeBytes size ≤ 4 := by
  cases size <;> decide

end Sys2Proof.Machine
end

