-- ==== Sys2Proof/Laws/Memory.lean ====
section
/-! SUPPORT. The data buffer's bytes: a read after a write, and that every operation keeps the canonical form and the bound. -/

namespace Sys2Proof.Machine

@[simp] theorem readByte_nil (i : Nat) : readByte [] i = 0#8 := rfl
@[simp] theorem memWf_nil : memWf [] = true := rfl
@[simp] theorem memBelow_nil (n : Nat) : memBelow [] n = true := rfl

/-- The parts of the canonical form. -/
theorem memWf_cons {k : Nat} {b : Byte} {m : List Host.Cell} :
    memWf ((k, b) :: m) = true ↔ b ≠ 0#8 ∧ (∀ c ∈ m, k < c.1) ∧ memWf m = true := by
  simp [memWf, and_assoc]

theorem memBelow_iff {m : List Host.Cell} {n : Nat} : memBelow m n = true ↔ ∀ c ∈ m, c.1 < n := by
  simp [memBelow]

/-- An index below every listed one reads 0. -/
theorem readByte_of_lt {m : List Host.Cell} {i : Nat} (h : ∀ c ∈ m, i < c.1) : readByte m i = 0#8 := by
  induction m with
  | nil => rfl
  | cons c m ih =>
    obtain ⟨k, b⟩ := c
    have hk : i < k := h (k, b) (by simp)
    simp only [readByte, if_neg (by omega : ¬ k = i)]
    exact ih (fun c hc => h c (by simp [hc]))

/-- A cell of a written memory is an old cell or the written one. -/
theorem mem_writeByte {m : List Host.Cell} {i : Nat} {b : Byte} {c : Host.Cell} (h : c ∈ writeByte m i b) :
    c ∈ m ∨ (c = (i, b) ∧ b ≠ 0#8) := by
  induction m with
  | nil =>
    simp only [writeByte] at h
    split at h
    · simp at h
    · right; simp_all
  | cons d m ih =>
    obtain ⟨k, e⟩ := d
    simp only [writeByte] at h
    split_ifs at h
    all_goals simp only [List.mem_cons] at h ⊢
    all_goals tauto

/-- Writing keeps the canonical form. -/
theorem memWf_writeByte {m : List Host.Cell} (h : memWf m = true) (i : Nat) (b : Byte) :
    memWf (writeByte m i b) = true := by
  induction m with
  | nil =>
    simp only [writeByte]
    split
    · rfl
    · simp_all [memWf]
  | cons d m ih =>
    obtain ⟨k, e⟩ := d
    obtain ⟨he, hk, hm⟩ := memWf_cons.1 h
    simp only [writeByte]
    split_ifs with h1 h2 h3 h4
    · exact h
    · refine memWf_cons.2 ⟨h2, ?_, h⟩
      intro c hc
      rcases List.mem_cons.1 hc with rfl | hc
      · exact h1
      · exact h1.trans (hk c hc)
    · exact hm
    · subst h3
      exact memWf_cons.2 ⟨h4, hk, hm⟩
    · refine memWf_cons.2 ⟨he, ?_, ih hm⟩
      intro c hc
      rcases mem_writeByte hc with hc | ⟨rfl, _⟩
      · exact hk c hc
      · show k < i
        omega

/-- Writing below `n` keeps every listed index below `n`. -/
theorem memBelow_writeByte {m : List Host.Cell} {n i : Nat} (h : memBelow m n = true) (hi : i < n) (b : Byte) :
    memBelow (writeByte m i b) n = true := by
  rw [memBelow_iff] at h ⊢
  intro c hc
  rcases mem_writeByte hc with hc | ⟨rfl, _⟩
  · exact h c hc
  · exact hi

/-- A read after a write to the same index gives the byte written. -/
theorem readByte_writeByte_same {m : List Host.Cell} (h : memWf m = true) (i : Nat) (b : Byte) :
    readByte (writeByte m i b) i = b := by
  induction m with
  | nil =>
    simp only [writeByte]
    split
    · simp_all
    · simp [readByte]
  | cons d m ih =>
    obtain ⟨k, e⟩ := d
    obtain ⟨_, hk, hm⟩ := memWf_cons.1 h
    simp only [writeByte]
    split_ifs with h1 h2 h3 h4
    · subst h2
      apply readByte_of_lt
      intro c hc
      rcases List.mem_cons.1 hc with rfl | hc
      · exact h1
      · exact h1.trans (hk c hc)
    · simp [readByte]
    · subst h3 h4
      exact readByte_of_lt hk
    · simp [readByte]
    · simp only [readByte, if_neg (fun hh : k = i => h3 hh.symm)]
      exact ih hm

/-- A write leaves every other index alone. -/
theorem readByte_writeByte_ne {m : List Host.Cell} {i j : Nat} (hij : j ≠ i) (b : Byte) :
    readByte (writeByte m i b) j = readByte m j := by
  induction m with
  | nil =>
    simp only [writeByte]
    split
    · rfl
    · simp [readByte, Ne.symm hij]
  | cons d m ih =>
    obtain ⟨k, e⟩ := d
    simp only [writeByte]
    split_ifs with h1 h2 h3 h4
    · rfl
    · simp [readByte, Ne.symm hij]
    · subst h3
      simp [readByte, Ne.symm hij]
    · subst h3
      simp [readByte, Ne.symm hij]
    · simp only [readByte]
      split
      · rfl
      · exact ih

/-- One more byte of a multi-byte store. -/
theorem writeLE_succ (m : List Host.Cell) (i n : Nat) (v : Word) :
    writeLE m i (n + 1) v = writeByte (writeLE m i n v) (i + n) (byteLane v n) := by
  simp [writeLE, List.range_succ]

theorem memWf_writeLE {m : List Host.Cell} (h : memWf m = true) (i n : Nat) (v : Word) :
    memWf (writeLE m i n v) = true := by
  induction n with
  | zero => simpa [writeLE] using h
  | succ n ih => rw [writeLE_succ]; exact memWf_writeByte ih _ _

theorem memBelow_writeLE {m : List Host.Cell} {i n k : Nat} (h : memBelow m k = true) (hi : i + n ≤ k) (v : Word) :
    memBelow (writeLE m i n v) k = true := by
  induction n with
  | zero => simpa [writeLE] using h
  | succ n ih => rw [writeLE_succ]; exact memBelow_writeByte (ih (by omega)) (by omega) _

/-- A multi-byte store leaves every byte outside it alone. -/
theorem readByte_writeLE_outside (m : List Host.Cell) {i n j : Nat} (h : j < i ∨ i + n ≤ j) (v : Word) :
    readByte (writeLE m i n v) j = readByte m j := by
  induction n with
  | zero => simp [writeLE]
  | succ n ih =>
    rw [writeLE_succ, readByte_writeByte_ne (by omega)]
    exact ih (by omega)

/-- A multi-byte store puts byte lane `k` of the value at index `i + k`. -/
theorem readByte_writeLE_inside {m : List Host.Cell} (h : memWf m = true) {i n k : Nat} (hk : k < n) (v : Word) :
    readByte (writeLE m i n v) (i + k) = byteLane v k := by
  induction n with
  | zero => omega
  | succ n ih =>
    rw [writeLE_succ]
    by_cases hkn : k = n
    · subst hkn
      exact readByte_writeByte_same (memWf_writeLE h _ _ _) _ _
    · rw [readByte_writeByte_ne (by omega)]
      exact ih (by omega)

/-- The sum of the byte lanes of a number is the number, cut to those lanes. -/
theorem lanes_sum (x n : Nat) :
    ((List.range n).map (fun k => x / 2 ^ (8 * k) % 2 ^ 8 * 2 ^ (8 * k))).sum = x % 2 ^ (8 * n) := by
  induction n with
  | zero => simp [Nat.mod_one]
  | succ n ih =>
    rw [List.range_succ, List.map_append, List.sum_append, ih, Nat.mul_succ, Nat.pow_add, Nat.mod_mul]
    rw [List.map_cons, List.map_nil, List.sum_cons, List.sum_nil, Nat.add_zero, Nat.mul_comm (2 ^ (8 * n))]

/-- A buffer read is the sum of its bytes, the first least significant (20 R75). -/
theorem readLE_eq_sum (m : List Host.Cell) (i n : Nat) :
    readLE m i n = BitVec.ofNat 32 (((List.range n).map (fun k => (readByte m (i + k)).toNat * 2 ^ (8 * k))).sum) := by
  induction n with
  | zero => rfl
  | succ n ih =>
    unfold readLE at ih ⊢
    rw [List.range_succ, List.foldl_append, ih, List.map_append, List.sum_append, List.foldl_cons, List.foldl_nil,
      List.map_cons, List.map_nil, List.sum_cons, List.sum_nil, Nat.add_zero]
    apply BitVec.eq_of_toNat_eq
    have hb : (readByte m (i + n)).toNat < 2 ^ 32 := lt_trans (readByte m (i + n)).isLt (by decide)
    rw [BitVec.toNat_add, BitVec.toNat_shiftLeft, BitVec.toNat_setWidth, BitVec.toNat_ofNat, BitVec.toNat_ofNat,
      Nat.shiftLeft_eq, Nat.mod_eq_of_lt hb, ← Nat.add_mod]

/-- Bytes in their lanes sum to a number below the next lane. -/
theorem bytes_sum_lt (d : Nat → Byte) (n : Nat) :
    ((List.range n).map (fun k => (d k).toNat * 2 ^ (8 * k))).sum < 2 ^ (8 * n) := by
  induction n with
  | zero => simp
  | succ n ih =>
    rw [List.range_succ, List.map_append, List.sum_append, Nat.mul_succ, Nat.pow_add]
    simp only [List.map_cons, List.map_nil, List.sum_cons, List.sum_nil, Nat.add_zero]
    have := (d n).isLt
    have h2 : (d n).toNat * 2 ^ (8 * n) ≤ (2 ^ 8 - 1) * 2 ^ (8 * n) := Nat.mul_le_mul_right _ (by omega)
    rw [Nat.mul_comm (2 ^ (8 * n))]
    omega

/-- Lane `k` of a sum of bytes in their lanes is byte `k`. -/
theorem bytes_sum_lane (d : Nat → Byte) {n k : Nat} (hk : k < n) :
    ((List.range n).map (fun k => (d k).toNat * 2 ^ (8 * k))).sum / 2 ^ (8 * k) % 2 ^ 8 = (d k).toNat := by
  induction n with
  | zero => omega
  | succ n ih =>
    rw [List.range_succ, List.map_append, List.sum_append]
    simp only [List.map_cons, List.map_nil, List.sum_cons, List.sum_nil, Nat.add_zero]
    by_cases h : k = n
    · subst h
      rw [Nat.add_mul_div_right _ _ (by positivity), Nat.div_eq_of_lt (bytes_sum_lt d k), Nat.zero_add,
        Nat.mod_eq_of_lt (d k).isLt]
    · have hlt : k < n := by omega
      have e : 2 ^ (8 * n) = 2 ^ 8 * 2 ^ (8 * (n - k - 1)) * 2 ^ (8 * k) := by rw [← Nat.pow_add, ← Nat.pow_add]; congr 1; omega
      rw [e, ← Nat.mul_assoc, Nat.add_mul_div_right _ _ (by positivity), Nat.mul_left_comm, Nat.add_mul_mod_self_left]
      exact ih hlt

/-- Lane `k` of a buffer read is the byte at its index. -/
theorem readLE_lane (m : List Host.Cell) (i : Nat) {n k : Nat} (hn : n ≤ 4) (hk : k < n) :
    (readLE m i n).toNat / 2 ^ (8 * k) % 2 ^ 8 = (readByte m (i + k)).toNat := by
  have hlt := lt_of_lt_of_le (bytes_sum_lt (fun k => readByte m (i + k)) n)
    (Nat.pow_le_pow_right (by decide) (by omega : 8 * n ≤ 32))
  rw [readLE_eq_sum, BitVec.toNat_ofNat, Nat.mod_eq_of_lt hlt]
  exact bytes_sum_lane (fun k => readByte m (i + k)) hk

end Sys2Proof.Machine
end

