-- ==== Sys2Proof/Laws/State.lean ====
section
/-! SUPPORT. Every field of every named update of the state, once: no later proof unfolds a record update. -/

namespace Sys2Proof.Machine

variable (s : State)

/-! setRegs -/
@[simp] theorem State.setRegs_cfg (r : Regs) : (s.setRegs r).cfg = s.cfg := rfl
@[simp] theorem State.setRegs_regs (r : Regs) : (s.setRegs r).regs = r := rfl
@[simp] theorem State.setRegs_buf (r : Regs) : (s.setRegs r).buf = s.buf := rfl
@[simp] theorem State.setRegs_n (r : Regs) : (s.setRegs r).n = s.n := rfl
@[simp] theorem State.setRegs_pending (r : Regs) : (s.setRegs r).pending = s.pending := rfl
@[simp] theorem State.setRegs_faults (r : Regs) : (s.setRegs r).faults = s.faults := rfl
@[simp] theorem State.setRegs_terminated (r : Regs) : (s.setRegs r).terminated = s.terminated := rfl
@[simp] theorem State.setRegs_refused (r : Regs) : (s.setRegs r).refused = s.refused := rfl
@[simp] theorem State.setRegs_hist (r : Regs) : (s.setRegs r).hist = s.hist := rfl
@[simp] theorem State.setRegs_offers (r : Regs) : (s.setRegs r).offers = s.offers := rfl
@[simp] theorem State.setRegs_snapArg (r : Regs) : (s.setRegs r).snapArg = s.snapArg := rfl
@[simp] theorem State.setRegs_startupArg (r : Regs) : (s.setRegs r).startupArg = s.startupArg := rfl
@[simp] theorem State.setRegs_draws (r : Regs) : (s.setRegs r).draws = s.draws := rfl
@[simp] theorem State.setRegs_reply (r : Regs) : (s.setRegs r).reply = s.reply := rfl

/-! setBuf -/
@[simp] theorem State.setBuf_cfg (m : List Host.Cell) : (s.setBuf m).cfg = s.cfg := rfl
@[simp] theorem State.setBuf_regs (m : List Host.Cell) : (s.setBuf m).regs = s.regs := rfl
@[simp] theorem State.setBuf_buf (m : List Host.Cell) : (s.setBuf m).buf = m := rfl
@[simp] theorem State.setBuf_n (m : List Host.Cell) : (s.setBuf m).n = s.n := rfl
@[simp] theorem State.setBuf_pending (m : List Host.Cell) : (s.setBuf m).pending = s.pending := rfl
@[simp] theorem State.setBuf_faults (m : List Host.Cell) : (s.setBuf m).faults = s.faults := rfl
@[simp] theorem State.setBuf_terminated (m : List Host.Cell) : (s.setBuf m).terminated = s.terminated := rfl
@[simp] theorem State.setBuf_refused (m : List Host.Cell) : (s.setBuf m).refused = s.refused := rfl
@[simp] theorem State.setBuf_hist (m : List Host.Cell) : (s.setBuf m).hist = s.hist := rfl
@[simp] theorem State.setBuf_offers (m : List Host.Cell) : (s.setBuf m).offers = s.offers := rfl
@[simp] theorem State.setBuf_snapArg (m : List Host.Cell) : (s.setBuf m).snapArg = s.snapArg := rfl
@[simp] theorem State.setBuf_startupArg (m : List Host.Cell) : (s.setBuf m).startupArg = s.startupArg := rfl
@[simp] theorem State.setBuf_draws (m : List Host.Cell) : (s.setBuf m).draws = s.draws := rfl
@[simp] theorem State.setBuf_reply (m : List Host.Cell) : (s.setBuf m).reply = s.reply := rfl

/-! setPending -/
@[simp] theorem State.setPending_cfg (p : Option Request) : (s.setPending p).cfg = s.cfg := rfl
@[simp] theorem State.setPending_regs (p : Option Request) : (s.setPending p).regs = s.regs := rfl
@[simp] theorem State.setPending_buf (p : Option Request) : (s.setPending p).buf = s.buf := rfl
@[simp] theorem State.setPending_n (p : Option Request) : (s.setPending p).n = s.n := rfl
@[simp] theorem State.setPending_pending (p : Option Request) : (s.setPending p).pending = p := rfl
@[simp] theorem State.setPending_faults (p : Option Request) : (s.setPending p).faults = s.faults := rfl
@[simp] theorem State.setPending_terminated (p : Option Request) : (s.setPending p).terminated = s.terminated := rfl
@[simp] theorem State.setPending_refused (p : Option Request) : (s.setPending p).refused = s.refused := rfl
@[simp] theorem State.setPending_hist (p : Option Request) : (s.setPending p).hist = s.hist := rfl
@[simp] theorem State.setPending_offers (p : Option Request) : (s.setPending p).offers = s.offers := rfl
@[simp] theorem State.setPending_snapArg (p : Option Request) : (s.setPending p).snapArg = s.snapArg := rfl
@[simp] theorem State.setPending_startupArg (p : Option Request) : (s.setPending p).startupArg = s.startupArg := rfl
@[simp] theorem State.setPending_draws (p : Option Request) : (s.setPending p).draws = s.draws := rfl
@[simp] theorem State.setPending_reply (p : Option Request) : (s.setPending p).reply = s.reply := rfl

/-! setReply -/
@[simp] theorem State.setReply_cfg (r : Reply) : (s.setReply r).cfg = s.cfg := rfl
@[simp] theorem State.setReply_regs (r : Reply) : (s.setReply r).regs = s.regs := rfl
@[simp] theorem State.setReply_buf (r : Reply) : (s.setReply r).buf = s.buf := rfl
@[simp] theorem State.setReply_n (r : Reply) : (s.setReply r).n = s.n := rfl
@[simp] theorem State.setReply_pending (r : Reply) : (s.setReply r).pending = s.pending := rfl
@[simp] theorem State.setReply_faults (r : Reply) : (s.setReply r).faults = s.faults := rfl
@[simp] theorem State.setReply_terminated (r : Reply) : (s.setReply r).terminated = s.terminated := rfl
@[simp] theorem State.setReply_refused (r : Reply) : (s.setReply r).refused = s.refused := rfl
@[simp] theorem State.setReply_hist (r : Reply) : (s.setReply r).hist = s.hist := rfl
@[simp] theorem State.setReply_offers (r : Reply) : (s.setReply r).offers = s.offers := rfl
@[simp] theorem State.setReply_snapArg (r : Reply) : (s.setReply r).snapArg = s.snapArg := rfl
@[simp] theorem State.setReply_startupArg (r : Reply) : (s.setReply r).startupArg = s.startupArg := rfl
@[simp] theorem State.setReply_draws (r : Reply) : (s.setReply r).draws = s.draws := rfl
@[simp] theorem State.setReply_reply (r : Reply) : (s.setReply r).reply = r := rfl

/-! emit -/
@[simp] theorem State.emit_cfg (e : Event) : (s.emit e).cfg = s.cfg := rfl
@[simp] theorem State.emit_regs (e : Event) : (s.emit e).regs = s.regs := rfl
@[simp] theorem State.emit_buf (e : Event) : (s.emit e).buf = s.buf := rfl
@[simp] theorem State.emit_n (e : Event) : (s.emit e).n = s.n := rfl
@[simp] theorem State.emit_pending (e : Event) : (s.emit e).pending = s.pending := rfl
@[simp] theorem State.emit_faults (e : Event) : (s.emit e).faults = s.faults := rfl
@[simp] theorem State.emit_terminated (e : Event) : (s.emit e).terminated = s.terminated := rfl
@[simp] theorem State.emit_refused (e : Event) : (s.emit e).refused = s.refused := rfl
@[simp] theorem State.emit_hist (e : Event) : (s.emit e).hist = s.hist ++ [e] := rfl
@[simp] theorem State.emit_offers (e : Event) : (s.emit e).offers = s.offers := rfl
@[simp] theorem State.emit_snapArg (e : Event) : (s.emit e).snapArg = s.snapArg := rfl
@[simp] theorem State.emit_startupArg (e : Event) : (s.emit e).startupArg = s.startupArg := rfl
@[simp] theorem State.emit_draws (e : Event) : (s.emit e).draws = s.draws := rfl
@[simp] theorem State.emit_reply (e : Event) : (s.emit e).reply = s.reply := rfl

/-! raise -/
@[simp] theorem State.raise_cfg (c : Fault) (t : TxWord) : (s.raise c t).cfg = s.cfg := rfl
@[simp] theorem State.raise_regs (c : Fault) (t : TxWord) : (s.raise c t).regs = s.regs := rfl
@[simp] theorem State.raise_buf (c : Fault) (t : TxWord) : (s.raise c t).buf = s.buf := rfl
@[simp] theorem State.raise_n (c : Fault) (t : TxWord) : (s.raise c t).n = s.n := rfl
@[simp] theorem State.raise_pending (c : Fault) (t : TxWord) : (s.raise c t).pending = s.pending := rfl
@[simp] theorem State.raise_faults (c : Fault) (t : TxWord) : (s.raise c t).faults = s.faults ++ [⟨c, t⟩] := rfl
@[simp] theorem State.raise_terminated (c : Fault) (t : TxWord) : (s.raise c t).terminated = s.terminated := rfl
@[simp] theorem State.raise_refused (c : Fault) (t : TxWord) : (s.raise c t).refused = s.refused := rfl
@[simp] theorem State.raise_hist (c : Fault) (t : TxWord) : (s.raise c t).hist = s.hist ++ [.fault c t] := rfl
@[simp] theorem State.raise_offers (c : Fault) (t : TxWord) : (s.raise c t).offers = s.offers := rfl
@[simp] theorem State.raise_snapArg (c : Fault) (t : TxWord) : (s.raise c t).snapArg = s.snapArg := rfl
@[simp] theorem State.raise_startupArg (c : Fault) (t : TxWord) : (s.raise c t).startupArg = s.startupArg := rfl
@[simp] theorem State.raise_draws (c : Fault) (t : TxWord) : (s.raise c t).draws = s.draws := rfl
@[simp] theorem State.raise_reply (c : Fault) (t : TxWord) : (s.raise c t).reply = .faulted c := rfl

/-! refuse -/
@[simp] theorem State.refuse_cfg (r : Refusal) : (s.refuse r).cfg = s.cfg := rfl
@[simp] theorem State.refuse_regs (r : Refusal) : (s.refuse r).regs = s.regs := rfl
@[simp] theorem State.refuse_buf (r : Refusal) : (s.refuse r).buf = s.buf := rfl
@[simp] theorem State.refuse_n (r : Refusal) : (s.refuse r).n = s.n := rfl
@[simp] theorem State.refuse_pending (r : Refusal) : (s.refuse r).pending = s.pending := rfl
@[simp] theorem State.refuse_faults (r : Refusal) : (s.refuse r).faults = s.faults := rfl
@[simp] theorem State.refuse_terminated (r : Refusal) : (s.refuse r).terminated = s.terminated := rfl
@[simp] theorem State.refuse_refused (r : Refusal) : (s.refuse r).refused = true := rfl
@[simp] theorem State.refuse_hist (r : Refusal) : (s.refuse r).hist = s.hist ++ [.refuse r] := rfl
@[simp] theorem State.refuse_offers (r : Refusal) : (s.refuse r).offers = s.offers := rfl
@[simp] theorem State.refuse_snapArg (r : Refusal) : (s.refuse r).snapArg = s.snapArg := rfl
@[simp] theorem State.refuse_startupArg (r : Refusal) : (s.refuse r).startupArg = s.startupArg := rfl
@[simp] theorem State.refuse_draws (r : Refusal) : (s.refuse r).draws = s.draws := rfl
@[simp] theorem State.refuse_reply (r : Refusal) : (s.refuse r).reply = .refused r := rfl

/-! hold -/
@[simp] theorem State.hold_cfg : s.hold.cfg = s.cfg := rfl
@[simp] theorem State.hold_regs : s.hold.regs = s.regs := rfl
@[simp] theorem State.hold_buf : s.hold.buf = s.buf := rfl
@[simp] theorem State.hold_n : s.hold.n = s.n := rfl
@[simp] theorem State.hold_pending : s.hold.pending = s.pending := rfl
@[simp] theorem State.hold_faults : s.hold.faults = s.faults := rfl
@[simp] theorem State.hold_terminated : s.hold.terminated = s.terminated := rfl
@[simp] theorem State.hold_refused : s.hold.refused = s.refused := rfl
@[simp] theorem State.hold_hist : s.hold.hist = s.hist := rfl
@[simp] theorem State.hold_offers : s.hold.offers = s.offers := rfl
@[simp] theorem State.hold_snapArg : s.hold.snapArg = s.snapArg := rfl
@[simp] theorem State.hold_startupArg : s.hold.startupArg = s.startupArg := rfl
@[simp] theorem State.hold_draws : s.hold.draws = s.draws := rfl
@[simp] theorem State.hold_reply : s.hold.reply = .held := rfl

/-! takeOffer -/
@[simp] theorem State.takeOffer_cfg (o : Offer) (os : List Offer) : (s.takeOffer o os).cfg = s.cfg := rfl
@[simp] theorem State.takeOffer_regs (o : Offer) (os : List Offer) : (s.takeOffer o os).regs = s.regs := rfl
@[simp] theorem State.takeOffer_buf (o : Offer) (os : List Offer) : (s.takeOffer o os).buf = s.buf := rfl
@[simp] theorem State.takeOffer_n (o : Offer) (os : List Offer) : (s.takeOffer o os).n = s.n := rfl
@[simp] theorem State.takeOffer_pending (o : Offer) (os : List Offer) : (s.takeOffer o os).pending = s.pending := rfl
@[simp] theorem State.takeOffer_faults (o : Offer) (os : List Offer) : (s.takeOffer o os).faults = s.faults := rfl
@[simp] theorem State.takeOffer_terminated (o : Offer) (os : List Offer) : (s.takeOffer o os).terminated = s.terminated := rfl
@[simp] theorem State.takeOffer_refused (o : Offer) (os : List Offer) : (s.takeOffer o os).refused = s.refused := rfl
@[simp] theorem State.takeOffer_hist (o : Offer) (os : List Offer) : (s.takeOffer o os).hist = s.hist := rfl
@[simp] theorem State.takeOffer_offers (o : Offer) (os : List Offer) : (s.takeOffer o os).offers = os := rfl
@[simp] theorem State.takeOffer_snapArg (o : Offer) (os : List Offer) : (s.takeOffer o os).snapArg = o.snap := rfl
@[simp] theorem State.takeOffer_startupArg (o : Offer) (os : List Offer) : (s.takeOffer o os).startupArg = o.startup := rfl
@[simp] theorem State.takeOffer_draws (o : Offer) (os : List Offer) : (s.takeOffer o os).draws = s.draws := rfl
@[simp] theorem State.takeOffer_reply (o : Offer) (os : List Offer) : (s.takeOffer o os).reply = s.reply := rfl

/-! resetDevice -/
@[simp] theorem State.resetDevice_cfg (ok : Bool) : (s.resetDevice ok).cfg = s.cfg := rfl
@[simp] theorem State.resetDevice_regs (ok : Bool) : (s.resetDevice ok).regs = resetRegs s.cfg := rfl
@[simp] theorem State.resetDevice_buf (ok : Bool) : (s.resetDevice ok).buf = [] := rfl
@[simp] theorem State.resetDevice_n (ok : Bool) : (s.resetDevice ok).n = negotiated s.cfg := rfl
@[simp] theorem State.resetDevice_pending (ok : Bool) : (s.resetDevice ok).pending = s.pending := rfl
@[simp] theorem State.resetDevice_faults (ok : Bool) : (s.resetDevice ok).faults = s.faults := rfl
@[simp] theorem State.resetDevice_terminated (ok : Bool) : (s.resetDevice ok).terminated = s.terminated := rfl
@[simp] theorem State.resetDevice_refused (ok : Bool) : (s.resetDevice ok).refused = s.refused := rfl
@[simp] theorem State.resetDevice_hist (ok : Bool) : (s.resetDevice ok).hist = s.hist ++ [.beReset, .startup (negotiated s.cfg) ok] := rfl
@[simp] theorem State.resetDevice_offers (ok : Bool) : (s.resetDevice ok).offers = s.offers := rfl
@[simp] theorem State.resetDevice_snapArg (ok : Bool) : (s.resetDevice ok).snapArg = s.snapArg := rfl
@[simp] theorem State.resetDevice_startupArg (ok : Bool) : (s.resetDevice ok).startupArg = s.startupArg := rfl
@[simp] theorem State.resetDevice_draws (ok : Bool) : (s.resetDevice ok).draws = (if s.startupArg = none then s.draws + 1 else s.draws) := rfl
@[simp] theorem State.resetDevice_reply (ok : Bool) : (s.resetDevice ok).reply = .done := rfl

end Sys2Proof.Machine
end

