-- ==== Sys2Proof/Laws/Ops.lean ====
section
/-! SUPPORT. One lemma per shared operation that says everything it can do: later proofs cite these and unfold none of them. -/

namespace Sys2Proof.Machine

open Sys2Proof.Safety

/-- Everything the access check can answer, in its order (40 R130). -/
theorem accessCheck_cases (s : State) (size : Size) (page : Page) (off : Offset) :
    (s.terminated = true ∧ accessCheck s size page off = .held) ∨
    (s.terminated = false ∧ 5 ≤ page.toNat ∧ accessCheck s size page off = .fault .access) ∨
    (s.terminated = false ∧ page.toNat < 5 ∧ off.toNat % sizeBytes size ≠ 0 ∧
      accessCheck s size page off = .fault .access) ∨
    (s.terminated = false ∧ page.toNat < 5 ∧ off.toNat % sizeBytes size = 0 ∧ 0x80 ≤ off.toNat ∧
      s.n < off.toNat - 0x80 + sizeBytes size ∧ accessCheck s size page off = .fault .overrun) ∨
    (BusReady s size page off ∧ accessCheck s size page off = .ok) := by
  by_cases h1 : s.terminated = true
  · exact .inl ⟨h1, by simp [accessCheck, h1]⟩
  have h1' : s.terminated = false := by simpa using h1
  by_cases h2 : 5 ≤ page.toNat
  · exact .inr (.inl ⟨h1', h2, by simp [accessCheck, h1', locPages, h2]⟩)
  by_cases h3 : off.toNat % sizeBytes size ≠ 0
  · exact .inr (.inr (.inl ⟨h1', by omega, h3, by simp [accessCheck, h1', locPages, h2, h3]⟩))
  have h3' : off.toNat % sizeBytes size = 0 := by simpa using h3
  by_cases h4 : 0x80 ≤ off.toNat ∧ s.n < off.toNat - 0x80 + sizeBytes size
  · refine .inr (.inr (.inr (.inl ⟨h1', by omega, h3', h4.1, h4.2, ?_⟩)))
    simp [accessCheck, h1', locPages, h2, h3', bufOff, bufIndex, h4.1, h4.2]
  · refine .inr (.inr (.inr (.inr ⟨⟨h1', by omega, h3', fun hb => ?_⟩, ?_⟩)))
    · by_contra hc
      exact h4 ⟨hb, by omega⟩
    · simp only [accessCheck, h1', locPages, bufOff, bufIndex, ge_iff_le, if_neg h2, h3']
      exact if_neg h4

/-- The access check passes exactly when the access is ready (40 R130). -/
theorem accessCheck_ok_iff {s : State} {size : Size} {page : Page} {off : Offset} :
    accessCheck s size page off = .ok ↔ BusReady s size page off := by
  rcases accessCheck_cases s size page off with ⟨h, e⟩ | ⟨h, h2, e⟩ | ⟨h, h2, h3, e⟩ | ⟨h, h2, h3, h4, h5, e⟩ | ⟨h, e⟩
  all_goals rw [e]
  · simp [BusReady, h]
  · simp [BusReady, h]; omega
  · simp [BusReady, h3]
  · simp [BusReady, h4]; omega
  · simp [h]

/-- The access check holds exactly after termination. -/
theorem accessCheck_held_iff {s : State} {size : Size} {page : Page} {off : Offset} :
    accessCheck s size page off = .held ↔ s.terminated = true := by
  rcases accessCheck_cases s size page off with ⟨h, e⟩ | ⟨h, h2, e⟩ | ⟨h, h2, h3, e⟩ | ⟨h, h2, h3, h4, h5, e⟩ | ⟨h, e⟩
  all_goals rw [e]
  · simp [h]
  · simp [h]
  · simp [h]
  · simp [h]
  · simp [h.1]

/-- `FLT_ACCESS` comes from the page or the alignment. -/
theorem accessCheck_access_iff {s : State} {size : Size} {page : Page} {off : Offset} :
    accessCheck s size page off = .fault .access ↔
      s.terminated = false ∧ (5 ≤ page.toNat ∨ off.toNat % sizeBytes size ≠ 0) := by
  rcases accessCheck_cases s size page off with ⟨h, e⟩ | ⟨h, h2, e⟩ | ⟨h, h2, h3, e⟩ | ⟨h, h2, h3, h4, h5, e⟩ | ⟨h, e⟩
  all_goals rw [e]
  · simp [h]
  · simp [h, h2]
  · simp [h, h3]
  · simp [h3]; omega
  · have h2 := h.2.1
    simp [h.2.2.1]; omega

/-- `FLT_OVERRUN` comes from the buffer's bound, once page and alignment passed. -/
theorem accessCheck_overrun_iff {s : State} {size : Size} {page : Page} {off : Offset} :
    accessCheck s size page off = .fault .overrun ↔
      s.terminated = false ∧ page.toNat < 5 ∧ off.toNat % sizeBytes size = 0 ∧
        0x80 ≤ off.toNat ∧ s.n < off.toNat - 0x80 + sizeBytes size := by
  rcases accessCheck_cases s size page off with ⟨h, e⟩ | ⟨h, h2, e⟩ | ⟨h, h2, h3, e⟩ | ⟨h, h2, h3, h4, h5, e⟩ | ⟨h, e⟩
  all_goals rw [e]
  · simp [h]
  · simp; omega
  · simp [h3]
  · simp [*]
  · simp only [reduceCtorEq, false_iff]
    rintro ⟨_, _, _, hb, ho⟩
    have := h.2.2.2 hb
    omega

/-- A bus access never terminates the device. -/
theorem accessCheck_ne_terminated {s : State} {size : Size} {page : Page} {off : Offset} :
    accessCheck s size page off ≠ .fault .terminated := by
  simp only [accessCheck]
  split_ifs <;> simp

section BusTx

variable {t : TxWord} {size : Size} {page : Page} {off : Offset} {s e u : State}

/-- A ready access has the rule's own effect. -/
theorem busTx_ready (h : BusReady s size page off) : busTx t size page off s e = .next e := by
  simp [busTx, accessCheck_ok_iff.2 h]

theorem busTx_terminated (h : s.terminated = true) : busTx t size page off s e = .next s.hold := by
  simp [busTx, accessCheck_held_iff.2 h]

theorem busTx_access (h : s.terminated = false) (hb : 5 ≤ page.toNat ∨ off.toNat % sizeBytes size ≠ 0) :
    busTx t size page off s e = .next (s.raise .access t) := by
  simp [busTx, accessCheck_access_iff.2 ⟨h, hb⟩]

theorem busTx_overrun (h : s.terminated = false) (hp : page.toNat < 5) (ha : off.toNat % sizeBytes size = 0)
    (hb : 0x80 ≤ off.toNat) (ho : s.n < off.toNat - 0x80 + sizeBytes size) :
    busTx t size page off s e = .next (s.raise .overrun t) := by
  simp [busTx, accessCheck_overrun_iff.2 ⟨h, hp, ha, hb, ho⟩]

/-- Everything a bus transaction can do: hold, enter a fault, or have its effect. -/
theorem busTx_cases (h : busTx t size page off s e = .next u) :
    (s.terminated = true ∧ u = s.hold) ∨ (s.terminated = false ∧ ∃ c, u = s.raise c t) ∨
      (BusReady s size page off ∧ u = e) := by
  unfold busTx at h
  cases hc : accessCheck s size page off with
  | held =>
    rw [hc] at h
    cases h
    exact .inl ⟨accessCheck_held_iff.1 hc, rfl⟩
  | fault c =>
    rw [hc] at h
    cases h
    refine .inr (.inl ⟨?_, c, rfl⟩)
    by_contra ht
    rw [accessCheck_held_iff.2 (by simpa using ht)] at hc
    cases hc
  | ok =>
    rw [hc] at h
    cases h
    exact .inr (.inr ⟨accessCheck_ok_iff.1 hc, rfl⟩)

/-- A write without effect: hold, fault, or its event alone. -/
theorem ignoredWrite_cases {v : Word} (h : ignoredWrite t size page off v s = .next u) :
    (s.terminated = true ∧ u = s.hold) ∨ (s.terminated = false ∧ ∃ c, u = s.raise c t) ∨
      (BusReady s size page off ∧ u = s.wrote size page off v) := busTx_cases h

end BusTx

/-- Everything a host transaction can do (60 R259). -/
theorem hostTx_cases {s e u : State} (h : hostTx s e = .next u) :
    ((s.terminated = true ∨ s.pending ≠ none) ∧ u = s.hold) ∨
      (s.terminated = false ∧ s.pending = none ∧ u = e) := by
  unfold hostTx at h
  split_ifs at h with h1 h2 <;> cases h
  · exact .inl ⟨.inl h1, rfl⟩
  · exact .inl ⟨.inr h2, rfl⟩
  · exact .inr ⟨by simpa using h1, by simpa using h2, rfl⟩

/-- The completion of a pending request (43 R201, R202). -/
theorem completionTx_ready {s : State} {st : Word} {latch : Bool} (ht : s.terminated = false) (hp : s.pending ≠ none) :
    completionTx s st latch = .next (s.complete st latch) := by
  simp [completionTx, ht, hp]

/-- Everything a completion can do (43 R201, R202). -/
theorem completionTx_cases {s u : State} {st : Word} {latch : Bool} (h : completionTx s st latch = .next u) :
    ((s.terminated = true ∨ s.pending = none) ∧ u = s.hold) ∨
      (s.terminated = false ∧ s.pending ≠ none ∧ u = s.complete st latch) := by
  unfold completionTx at h
  split_ifs at h with h1 h2 <;> cases h
  · exact .inl ⟨.inl h1, rfl⟩
  · exact .inl ⟨.inr h2, rfl⟩
  · exact .inr ⟨by simpa using h1, h2, rfl⟩

/-- Everything a backend byte write can do (43 R200). -/
theorem execBeWr_cases {index : Offset} {b : Byte} {s u : State} (h : execBeWr index b s = .next u) :
    u = s.hold ∨ ∃ r, s.terminated = false ∧ s.pending = some r ∧ index.toNat < r.outCap ∧
      u = ((s.setBuf (writeByte s.buf index.toNat b)).emit (.beWrite index.toNat b)).setReply .done := by
  simp only [execBeWr, Host.Outcome.next.injEq] at h
  split_ifs at h with h1
  · exact .inl h.symm
  · cases hp : s.pending with
    | none => rw [hp] at h; exact .inl h.symm
    | some r =>
      rw [hp] at h
      simp only at h
      split_ifs at h with h2
      · exact .inl h.symm
      · exact .inr ⟨r, by simpa using h1, rfl, by omega, h.symm⟩

/-- The accepted configurations, in the words of 00 R9 and 44 R221. -/
theorem accepted_iff (cfg : Config) :
    accepted cfg ↔ 6 ≤ cfg.beMax ∧ ∀ id leastMax, cfg.cmdLen = .backend id leastMax → leastMax ≤ cfg.beMax := by
  unfold accepted minBeMax beMaxFloor
  cases cfg.cmdLen <;> simp

/-- An accepted configuration's buffer holds the bytes the default header reader reads (42 R177). -/
theorem accepted.six_le {cfg : Config} (h : accepted cfg) : 6 ≤ cfg.beMax := ((accepted_iff cfg).1 h).1

/-- Everything the reset part can do (44 R220 to R223). -/
theorem resetTx_cases (t : TxWord) (s : State) (after : State → State) :
    (¬ accepted s.cfg ∧ resetTx t s after = s.refuse .configBeMax) ∨
      (accepted s.cfg ∧ startupResult s = true ∧ resetTx t s after = after (s.resetDevice true)) ∨
      (accepted s.cfg ∧ startupResult s = false ∧ resetTx t s after = (s.resetDevice false).startupFailed t) := by
  unfold resetTx
  split_ifs with h1 h2
  · exact .inr (.inl ⟨h1, h2, rfl⟩)
  · exact .inr (.inr ⟨h1, by simpa using h2, rfl⟩)
  · exact .inl ⟨h1, rfl⟩

/-- Everything the part of a restore after its holds can do (44 R226). -/
theorem restoreTx_cases (t : TxWord) (s : State) :
    restoreTx t s = s.refuse .restoreSnapshot ∨
      ∃ snap, s.snapArg = some snap ∧ admissible s.cfg snap = true ∧
        restoreTx t s = resetTx t s (fun s' => s'.overwrite snap) := by
  unfold restoreTx
  cases h : s.snapArg with
  | none => exact .inl rfl
  | some snap =>
    by_cases ha : admissible s.cfg snap = true
    · exact .inr ⟨snap, rfl, ha, by simp [ha]⟩
    · exact .inl (by simp [ha])

/-- Everything a step can do (60 R256). -/
theorem step_cases {s u : State} (h : step s = .next u) :
    (s.offers = [] ∧ u = s) ∨
      ∃ o rest, s.offers = o :: rest ∧
        ((∃ c, decode o.word = .error c ∧ u = (s.takeOffer o rest).refuse (.illFormed c)) ∨
          ∃ i, decode o.word = .ok i ∧ exec i (s.takeOffer o rest) = .next u) := by
  unfold step at h
  cases ho : s.offers with
  | nil => rw [ho] at h; cases h; exact .inl ⟨rfl, rfl⟩
  | cons o rest =>
    rw [ho] at h
    refine .inr ⟨o, rest, rfl, ?_⟩
    simp only at h
    cases hd : decode o.word with
    | error c => rw [hd] at h; cases h; exact .inl ⟨c, rfl, rfl⟩
    | ok i => rw [hd] at h; exact .inr ⟨i, rfl, h⟩

/-- Byte lane `k` as a number. -/
theorem byteLane_toNat (v : Word) (k : Nat) : (byteLane v k).toNat = v.toNat / 2 ^ (8 * k) % 2 ^ 8 := by
  simp [byteLane, Nat.shiftRight_eq_div_pow]

/-- The lanes a register read returns, as a number (20 R74). -/
theorem readLanes_eq (r : Regs) (size : Size) (off : Offset) :
    (readLanes r size off).toNat =
      (wordAt r (off &&& ~~~3#12)).toNat / 2 ^ (8 * (off &&& 3#12).toNat) % 2 ^ (8 * sizeBytes size) := by
  have h : 8 * sizeBytes size ≤ 32 := by cases size <;> decide
  have hlt : (wordAt r (off &&& ~~~3#12)).toNat / 2 ^ (8 * (off &&& 3#12).toNat) % 2 ^ (8 * sizeBytes size) < 2 ^ 32 :=
    lt_of_lt_of_le (Nat.mod_lt _ (by positivity)) (Nat.pow_le_pow_right (by decide) h)
  simp only [readLanes, BitVec.toNat_setWidth, BitVec.extractLsb'_toNat, BitVec.toNat_ushiftRight,
    Nat.shiftRight_eq_div_pow, Nat.pow_zero, Nat.div_one]
  exact Nat.mod_eq_of_lt hlt

end Sys2Proof.Machine
end

