-- ==== Sys2Proof/Laws/PerInstr.lean ====
section
/-! SUPPORT. One statement per instruction, by constructor: the fields its word shares with every word of its agent. -/

namespace Sys2Proof.Laws.EncodedFields

/-- The reserved field of the word is 0, and OP 0 or 1 says that the transaction is the bus's (30 R101, R102). -/
def Statement (i : Instr) : Prop :=
  txRsvd (encode i) = 0#11 ∧ (agentOf i = .bus ↔ (txOp (encode i)).toNat ≤ 1)

/-- The fields of a packed word, for every agent. -/
theorem of_pack {i : Instr} {d : Word} {op : BitVec 4} {sz : BitVec 2} {pg : Page} {off : Offset}
    (h : encode i = pack d op sz pg off) (ha : agentOf i = .bus ↔ op.toNat ≤ 1) : Statement i := by
  rw [Statement, h, txRsvd_pack, txOp_pack]
  exact ⟨rfl, ha⟩

theorem rdReg (size : Size) (page : Page) (off : Offset) : Statement (.rdReg size page off) := of_pack rfl (by simp [agentOf])
theorem rdBuf (size : Size) (page : Page) (off : Offset) : Statement (.rdBuf size page off) := of_pack rfl (by simp [agentOf])
theorem wrLocRequest (size : Size) (page : Page) : Statement (.wrLocRequest size page) := of_pack rfl (by simp [agentOf])
theorem wrLocRelinquish (size : Size) (page : Page) : Statement (.wrLocRelinquish size page) := of_pack rfl (by simp [agentOf])
theorem wrLocSeize (size : Size) (page : Page) : Statement (.wrLocSeize size page) := of_pack rfl (by simp [agentOf])
theorem wrLocResetEst (size : Size) (page : Page) : Statement (.wrLocResetEst size page) := of_pack rfl (by simp [agentOf])
theorem wrLocOther (size : Size) (page : Page) (value : Word) : Statement (.wrLocOther size page value) := of_pack rfl (by simp [agentOf])
theorem wrReqCmdReady (size : Size) (page : Page) : Statement (.wrReqCmdReady size page) := of_pack rfl (by simp [agentOf])
theorem wrReqGoIdle (size : Size) (page : Page) : Statement (.wrReqGoIdle size page) := of_pack rfl (by simp [agentOf])
theorem wrReqOther (size : Size) (page : Page) (value : Word) : Statement (.wrReqOther size page value) := of_pack rfl (by simp [agentOf])
theorem wrCancelCancel (size : Size) (page : Page) : Statement (.wrCancelCancel size page) := of_pack rfl (by simp [agentOf])
theorem wrCancelOther (size : Size) (page : Page) (value : Word) : Statement (.wrCancelOther size page value) := of_pack rfl (by simp [agentOf])
theorem wrStartInvoke (size : Size) (page : Page) : Statement (.wrStartInvoke size page) := of_pack rfl (by simp [agentOf])
theorem wrStartOther (size : Size) (page : Page) (value : Word) : Statement (.wrStartOther size page value) := of_pack rfl (by simp [agentOf])
theorem wrRegNoEffect (size : Size) (page : Page) (off : Offset) (value : Word) : Statement (.wrRegNoEffect size page off value) := of_pack rfl (by simp [agentOf])
theorem wrBuf (size : Size) (page : Page) (off : Offset) (value : Word) : Statement (.wrBuf size page off value) := of_pack rfl (by simp [agentOf])
theorem beWr (index : Offset) (byte : Byte) : Statement (.beWr index byte) := of_pack rfl (by simp [agentOf])
theorem beDoneOk : Statement .beDoneOk := of_pack rfl (by simp [agentOf])
theorem beDoneFail (status : Word) : Statement (.beDoneFail status) := of_pack rfl (by simp [agentOf])
theorem hostReset : Statement .hostReset := of_pack rfl (by simp [agentOf])
theorem hostSave : Statement .hostSave := of_pack rfl (by simp [agentOf])
theorem hostRestore : Statement .hostRestore := of_pack rfl (by simp [agentOf])

end Sys2Proof.Laws.EncodedFields
end

