-- ==== Sys2Proof/Tests/Slice0.lean ====
section
/-! SUPPORT. Tests of the model on fixed words and small states. Every expected value is from spec/95_test_vectors.md (the
row is named) or worked out by hand from the rule named. The second half gives, for every statement with hypotheses, a
state and operands that meet them. -/

namespace Sys2Proof.Tests

open Sys2Proof Sys2Proof.Machine Sys2Proof.Safety

set_option Elab.async false -- one kernel evaluation at a time: many at once run out of thread stacks

/-! ## The named start states of spec/95 section 1 -/

/-- S0: `init(CFG0)`. -/
def s0 : State := State.reset

/-- CFG1: a buffer of 0x10 bytes, and a base address whose sum wraps. -/
def cfg1 : Config := { scenarioConfig with beMax := 0x10, baseAddr := 0xFFFFFFFFFFFFFFC0#64 }

/-- S1: `init(CFG1)`. -/
def s1 : State := State.init cfg1

/-- S2: `init(CFG2)`. -/
def s2 : State := State.init { scenarioConfig with beMax := 0x800 }

/-- A locality is assigned. -/
def assigned (s : State) : State := { s with regs := { s.regs with locAssigned := true, granted := true } }

/-- SR: S0 after `REQUEST 0`. -/
def sr : State := assigned s0

/-- The 12-byte command 80 01 00 00 00 0C 00 00 01 44 00 00. -/
def command : List Host.Cell := [(0, 0x80#8), (1, 0x01#8), (5, 0x0C#8), (8, 0x01#8), (9, 0x44#8)]

def commandBytes : List Byte := [0x80, 0x01, 0, 0, 0, 0x0C, 0, 0, 0x01, 0x44, 0, 0]

/-- SR with the command in the buffer. -/
def sc : State := { sr with buf := command }

/-- The request of SB. -/
def request : Request := { inLen := 12, outCap := 0xF80, locality := 0#3, cancelReq := false, inRaced := false }

/-- SB: the command submitted. -/
def sb : State :=
  { sc with
    regs := { sc.regs with start := true }
    pending := some request
    hist := [.beReset, .startup 0xF80 true, .submit 12 0xF80 commandBytes] }

/-- A terminated device. -/
def sx : State := { s0 with terminated := true }

/-- `s` with one offer, its startup result and its snapshot. -/
def offering (s : State) (w : TxWord) (ok : Bool := true) (snap : Option Snapshot := none) : State :=
  { s with offers := [⟨w, snap, some ok⟩] }

/-- The state after the transaction with this word. -/
def after (s : State) (w : TxWord) (ok : Bool := true) (snap : Option Snapshot := none) : Option State :=
  match step (offering s w ok snap) with
  | .next t => some t
  | .fault _ => none
  | .refused _ => none

/-- What the transaction gave back. -/
def answer (s : State) (w : TxWord) : Option Reply := (after s w).map (·.reply)

/-- A register word after the transaction. -/
def wordAfter (s : State) (w : TxWord) (off : Offset) : Option Word := (after s w).map (fun t => wordAt t.regs off)

/-- The transaction changed no device field, and recorded no fault and no refusal. -/
def ignored (s : State) (w : TxWord) : Bool :=
  (after s w).map (fun t => (t.regs, t.buf, t.n, t.pending, t.faults, t.refused, t.terminated, t.reply))
    == some (s.regs, s.buf, s.n, s.pending, s.faults, s.refused, s.terminated, .done)

/-- The transaction faulted: the record, and no device field changed. -/
def faulted (s : State) (w : TxWord) (c : Fault) : Bool :=
  (after s w).map (fun t => (t.regs, t.buf, t.n, t.pending, t.faults, t.reply))
    == some (s.regs, s.buf, s.n, s.pending, s.faults ++ [⟨c, w⟩], .faulted c)

/-- The transaction was held: nothing changed but the answer. -/
def held (s : State) (w : TxWord) : Bool :=
  (after s w).map (fun t => (t.regs, t.buf, t.n, t.pending, t.faults, t.refused, t.hist, t.reply))
    == some (s.regs, s.buf, s.n, s.pending, s.faults, s.refused, s.hist, .held)

/-! ## Reset (95 section 1, W1, W2) -/

theorem test_reset_words :
    [0x000#12, 0x008#12, 0x00C#12, 0x030#12, 0x034#12, 0x044#12, 0x04C#12, 0x058#12, 0x05C#12, 0x060#12, 0x064#12, 0x068#12,
      0x06C#12].map (wordAt s0.regs)
      = [0x81#32, 0#32, 0#32, 0x00025811#32, 0x00001014#32, 0x2#32, 0#32, 0xF80#32, 0xFED44080#32, 0#32, 0xF80#32,
          0xFED44080#32, 0#32] := by decide +kernel

/-- S1: the address sum wraps mod 2^64. -/
theorem test_reset_wraps :
    [0x058#12, 0x05C#12, 0x060#12, 0x064#12, 0x068#12, 0x06C#12].map (wordAt s1.regs)
      = [0x10#32, 0x40#32, 0#32, 0x10#32, 0x40#32, 0#32] := by decide +kernel

theorem test_reset_bookkeeping :
    s0.pending = none ∧ s0.faults = [] ∧ s0.refused = false ∧ s0.terminated = false ∧ s0.buf = [] ∧ s0.n = 0xF80 ∧
      clean s0 = true ∧ memWf s0.buf = true := by decide +kernel

/-! ## Words that are not well formed (95 section 3.1, V1 to V14) -/

def refusal (w : TxWord) : Option WfCheck :=
  match decode w with
  | .ok _ => none
  | .error c => some c

theorem test_refused_words :
    [0x0000000070000000#64, 0x00000000F0000000#64, 0x0000000000008000#64, 0x000000000C000000#64, 0x0000000108000000#64,
      0x0000010010000080#64, 0x0001000014000080#64].map refusal
      = [some .op, some .op, some .rsvd, some .size, some .rdata, some .wdata, some .wdata] := by decide +kernel

theorem test_refused_words_other_agents :
    [0x0000010020000000#64, 0x0000000120001000#64, 0x0000000124000000#64, 0x0000000030000004#64, 0x0000000140000000#64,
      0x0000000050000001#64, 0x0000000060001000#64].map refusal
      = [some .bedata, some .bedata, some .size, some .done, some .host, some .host, some .host] := by decide +kernel

/-- V1: the mark is set for ever and nothing else changes; V265: also after termination. -/
theorem test_step_refuses :
    (after s0 0x0000000070000000#64).map (fun t => (t.refused, t.regs == s0.regs, t.hist.getLast?, clean t))
      = some (true, true, some (.refuse (.illFormed .op)), false) ∧
    (after sx 0x0000000070000000#64).map (·.refused) = some true := by decide +kernel

/-- WellFormed smoke: for each check of `wellFormed` a term that it refuses. -/
theorem test_ill_formed_terms :
    [Instr.rdReg .b4 0#3 0x080#12, .rdBuf .b4 0#3 0x07C#12,
      .wrLocOther .b4 0#3 0x1#32, .wrLocOther .b4 0#3 0x2#32, .wrLocOther .b4 0#3 0x4#32, .wrLocOther .b4 0#3 0x8#32,
      .wrLocOther .b1 0#3 0x100#32, .wrReqOther .b4 0#3 0x1#32, .wrReqOther .b4 0#3 0x2#32, .wrReqOther .b2 0#3 0x10000#32,
      .wrCancelOther .b4 0#3 0x1#32, .wrCancelOther .b1 0#3 0x100#32, .wrStartOther .b4 0#3 0x1#32,
      .wrStartOther .b1 0#3 0x100#32, .wrRegNoEffect .b4 0#3 0x080#12 0#32, .wrRegNoEffect .b4 0#3 0x008#12 0#32,
      .wrRegNoEffect .b4 0#3 0x040#12 0#32, .wrRegNoEffect .b4 0#3 0x048#12 0#32, .wrRegNoEffect .b4 0#3 0x04C#12 0#32,
      .wrRegNoEffect .b1 0#3 0x000#12 0x100#32, .wrBuf .b4 0#3 0x07C#12 0#32, .wrBuf .b1 0#3 0x080#12 0x100#32,
      .beDoneFail 0#32].map wellFormed = List.replicate 23 false := by decide +kernel

/-! ## Decoding: for every constructor, words written out from 30 R101 and R108 (95 sections 3.2 to 3.15) -/

theorem test_decode_reads :
    decode 0x0000000008005000#64 = .ok (.rdReg .b4 5#3 0x000#12) ∧  -- V20
    decode 0x000000000400005E#64 = .ok (.rdReg .b2 0#3 0x05E#12) ∧  -- V64
    decode 0x000000000000007F#64 = .ok (.rdReg .b1 0#3 0x07F#12) ∧
    decode 0x0000000000000083#64 = .ok (.rdBuf .b1 0#3 0x083#12) ∧  -- V81
    decode 0x0000000004000082#64 = .ok (.rdBuf .b2 0#3 0x082#12) ∧  -- V82
    decode 0x0000000000000880#64 = .ok (.rdBuf .b1 0#3 0x880#12) := by decide +kernel  -- V36

theorem test_decode_locality_control :
    decode 0x0000000110000008#64 = .ok (.wrLocRequest .b1 0#3) ∧  -- V25
    decode 0x0000000214001008#64 = .ok (.wrLocRelinquish .b2 1#3) ∧  -- V124
    decode 0x0000000418004008#64 = .ok (.wrLocSeize .b4 4#3) ∧  -- V127
    decode 0x0000000818003008#64 = .ok (.wrLocResetEst .b4 3#3) ∧  -- V129
    decode 0x0000000318000008#64 = .ok (.wrLocOther .b4 0#3 0x3#32) ∧  -- V130
    decode 0x0000001018000008#64 = .ok (.wrLocOther .b4 0#3 0x10#32) := by decide +kernel  -- V132

theorem test_decode_control_request :
    decode 0x0000000118003040#64 = .ok (.wrReqCmdReady .b4 3#3) ∧  -- V142
    decode 0x0000000114000040#64 = .ok (.wrReqCmdReady .b2 0#3) ∧  -- V141
    decode 0x0000000218000040#64 = .ok (.wrReqGoIdle .b4 0#3) ∧  -- V143
    decode 0x0000000318000040#64 = .ok (.wrReqOther .b4 0#3 0x3#32) ∧  -- V145
    decode 0x0000000018000040#64 = .ok (.wrReqOther .b4 0#3 0#32) := by decide +kernel  -- V146

theorem test_decode_cancel_and_start :
    decode 0x0000000118001048#64 = .ok (.wrCancelCancel .b4 1#3) ∧  -- V161
    decode 0x0000000018000048#64 = .ok (.wrCancelOther .b4 0#3 0#32) ∧  -- V164
    decode 0x0000000218000048#64 = .ok (.wrCancelOther .b4 0#3 0x2#32) ∧  -- V165
    decode 0x000000011000004C#64 = .ok (.wrStartInvoke .b1 0#3) ∧  -- V21
    decode 0x000000011400004C#64 = .ok (.wrStartInvoke .b2 0#3) ∧  -- V22
    decode 0x000000031800004C#64 = .ok (.wrStartOther .b4 0#3 0x3#32) ∧  -- V24
    decode 0xFFFFFFFF1800004C#64 = .ok (.wrStartOther .b4 0#3 0xFFFFFFFF#32) := by decide +kernel  -- V187

theorem test_decode_other_writes :
    decode 0x000000011000004D#64 = .ok (.wrRegNoEffect .b1 0#3 0x04D#12 0x1#32) ∧  -- V23
    decode 0x0000000110000009#64 = .ok (.wrRegNoEffect .b1 0#3 0x009#12 0x1#32) ∧  -- V26
    decode 0x0000000110000041#64 = .ok (.wrRegNoEffect .b1 0#3 0x041#12 0x1#32) ∧  -- V27
    decode 0x0000000118000081#64 = .ok (.wrBuf .b4 0#3 0x081#12 0x1#32) ∧  -- V28
    decode 0x0000005A100020A0#64 = .ok (.wrBuf .b1 2#3 0x0A0#12 0x5A#32) ∧  -- V85
    decode 0xAABBCCDD18000FFC#64 = .ok (.wrBuf .b4 0#3 0xFFC#12 0xAABBCCDD#32) := by decide +kernel  -- V87

theorem test_decode_backend_and_host :
    decode 0x000000AA20000F7F#64 = .ok (.beWr 0xF7F#12 0xAA#8) ∧  -- V221
    decode 0x0000000030000000#64 = .ok .beDoneOk ∧  -- V240
    decode 0x0000800030000000#64 = .ok (.beDoneFail 0x8000#32) ∧  -- V29
    decode 0x0000000040000000#64 = .ok .hostReset ∧  -- V260
    decode 0x0000000050000000#64 = .ok .hostSave ∧  -- section 3.15
    decode 0x0000000060000000#64 = .ok .hostRestore := by decide +kernel  -- V281

/-! ## The access check (95 section 3.3) -/

/-- V30, V31, V32, V33, V34, V35, V88 -/
theorem test_access_faults :
    [0x0000000008000002#64, 0x0000000004000001#64, 0x000000000800007E#64, 0x0000000008005000#64, 0x000000011800704C#64,
      0x0000000118005080#64, 0x00001234140000FF#64].all (fun w => faulted s0 w .access) = true := by decide +kernel

/-- V36, V37, V38, V39, V40 -/
theorem test_access_bounds :
    faulted s2 0x0000000000000880#64 .overrun = true ∧ answer s2 0x000000000800087C#64 = some (.data .b4 0#32) ∧
    faulted s1 0x000000EE10000090#64 .overrun = true ∧ faulted s1 0x000000001800008E#64 .access = true ∧
    (after s1 0x0000FFFF1400008E#64).map (·.buf) = some [(0xE, 0xFF#8), (0xF, 0xFF#8)] := by decide +kernel

/-- V41, V263: the page check comes first, and a terminated device holds. -/
theorem test_access_order :
    faulted s0 0x0000000118005081#64 .access = true ∧ held sx 0x0000000008000000#64 = true ∧
    held sx 0x0000000008005000#64 = true := by decide +kernel

/-! ## One step of each transaction -/

/-- V50, V54, V58, V59, V60, V61, V62 -/
theorem test_rdReg_words :
    [0x0000000008000000#64, 0x0000000008000044#64, 0x0000000008000008#64, 0x0000000008000040#64, 0x0000000008000048#64,
      0x0000000008000050#64, 0x000000000800007C#64].map (answer s0)
      = [0x81#32, 0x2#32, 0#32, 0#32, 0#32, 0#32, 0#32].map (fun v => some (Reply.data .b4 v)) := by decide +kernel

/-- V63, V64, V65, V67, V69: lanes, and every page the same. -/
theorem test_rdReg_lanes :
    answer s0 0x000000000000005F#64 = some (.data .b1 0xFE#32) ∧
    answer s0 0x000000000400005E#64 = some (.data .b2 0xFED4#32) ∧
    answer s0 0x0000000000000031#64 = some (.data .b1 0x58#32) ∧
    answer sr 0x0000000008003000#64 = some (.data .b4 0x83#32) ∧
    answer sb 0x000000000800404C#64 = some (.data .b4 1#32) := by decide +kernel

/-- V81, V82, V91 -/
theorem test_rdBuf :
    (let s := { s0 with buf := [(0, 0x11#8), (1, 0x22#8), (2, 0x33#8), (3, 0x44#8)] }
     answer s 0x0000000000000083#64 = some (.data .b1 0x44#32) ∧
     answer s 0x0000000004000082#64 = some (.data .b2 0x4433#32)) ∧
    answer sb 0x0000000008000080#64 = some (.data .b4 0x00000180#32) := by decide +kernel

/-- V80, V85, V86, V87 -/
theorem test_wrBuf_bytes :
    (after s0 0x4433221118000080#64).map (·.buf) = some [(0, 0x11#8), (1, 0x22#8), (2, 0x33#8), (3, 0x44#8)] ∧
    (after s0 0x0000005A100020A0#64).map (·.buf) = some [(0x20, 0x5A#8)] ∧
    (after s0 0x000000AB10000FFF#64).map (·.buf) = some [(0xF7F, 0xAB#8)] ∧
    (after s0 0xAABBCCDD18000FFC#64).map (·.buf)
      = some [(0xF7C, 0xDD#8), (0xF7D, 0xCC#8), (0xF7E, 0xBB#8), (0xF7F, 0xAA#8)] := by decide +kernel

/-- V89, V90: only a write below `inLen` marks the request raced. -/
theorem test_wrBuf_race :
    (after sb 0x0000000010000085#64).map (fun t => (readByte t.buf 5, t.pending)) = some (0#8, some { request with inRaced := true }) ∧
    (after sb 0x00000000180000FC#64).map (·.pending) = some (some request) := by decide +kernel

/-- V100 to V107 -/
theorem test_wrRegNoEffect :
    [0xFFFFFFFF18000000#64, 0x0000000018000030#64, 0x0000000018000044#64, 0x0000001018000058#64,
      0xFFFFFFFF18000050#64].all (ignored s0) = true ∧
    [0x000000031800000C#64, 0x000000011000004D#64, 0x0000000110000009#64].all (ignored sc) = true := by decide +kernel

/-- V120, V121, V122 -/
theorem test_wrLocRequest :
    wordAfter s0 0x0000000118000008#64 0x000#12 = some 0x83#32 ∧ wordAfter s0 0x0000000118000008#64 0x00C#12 = some 0x1#32 ∧
    wordAfter s0 0x0000000118001008#64 0x000#12 = some 0x83#32 ∧ ignored sr 0x0000000118000008#64 = true := by decide +kernel

/-- V123, V124, V125, V133: the pending request survives. -/
theorem test_wrLocRelinquish :
    wordAfter sr 0x0000000218000008#64 0x000#12 = some 0x81#32 ∧ wordAfter sr 0x0000000214001008#64 0x00C#12 = some 0#32 ∧
    ignored s0 0x0000000218000008#64 = true ∧
    (after sb 0x0000000218000008#64).map (fun t => (wordAt t.regs 0x04C#12, t.pending)) = some (1#32, some request) := by
  decide +kernel

/-- V126, V127 -/
theorem test_wrLocSeize : ignored sr 0x0000000418000008#64 = true ∧ ignored s0 0x0000000418004008#64 = true := by decide +kernel

/-- V128, V129 -/
theorem test_wrLocResetEst : ignored s0 0x0000000818000008#64 = true ∧ ignored s0 0x0000000818003008#64 = true := by
  decide +kernel

/-- V130, V131, V132 -/
theorem test_wrLocOther :
    [0x0000000318000008#64, 0x0000000018000008#64, 0x0000001018000008#64].all (ignored s0) = true := by decide +kernel

/-- V140, V142, V147 -/
theorem test_wrReqCmdReady :
    wordAfter s0 0x0000000118000040#64 0x044#12 = some 0#32 ∧ wordAfter s0 0x0000000118003040#64 0x044#12 = some 0#32 ∧
    (after sb 0x0000000118000040#64).map ifState = some .busy := by decide +kernel

/-- V143, V144, V148 -/
theorem test_wrReqGoIdle :
    (let s := { s0 with regs := { s0.regs with tpmIdle := false } }
     wordAfter s 0x0000000218000040#64 0x044#12 = some 0x2#32 ∧ (after s 0x0000000218000040#64).map ifState = some .idle) ∧
    ignored s0 0x0000000218000040#64 = true ∧
    (after { sb with regs := { sb.regs with tpmIdle := false } } 0x0000000218000040#64).map
      (fun t => (wordAt t.regs 0x044#12, ifState t)) = some (0x2#32, .busy) := by decide +kernel

/-- V145, V146 -/
theorem test_wrReqOther : ignored s0 0x0000000318000040#64 = true ∧ ignored s0 0x0000000018000040#64 = true := by decide +kernel

/-- V160, V161, V163 -/
theorem test_wrCancelCancel :
    (after sb 0x0000000118000048#64).map (fun t => (t.pending, t.hist.getLast?, wordAt t.regs 0x04C#12))
      = some (some { request with cancelReq := true }, some .cancelFwd, 1#32) ∧
    (after sb 0x0000000118001048#64).map (fun t => t.hist.getLast?) = some (some .cancelFwd) ∧
    ignored sr 0x0000000118000048#64 = true ∧
    (after sr 0x0000000118000048#64).map (fun t => t.hist.getLast?)
      = some (some (.bus .write 0#3 0x048#12 .b4 1#32)) := by decide +kernel

/-- V164, V165 -/
theorem test_wrCancelOther : ignored sb 0x0000000018000048#64 = true ∧ ignored sb 0x0000000218000048#64 = true := by
  decide +kernel

/-- V180, V181, V190: the request, the event, and `tpmIdle` as it was. -/
theorem test_wrStartInvoke_accepts :
    (after sc 0x000000011800004C#64).map (fun t => (wordAt t.regs 0x04C#12, t.pending, t.hist.getLast?))
      = some (1#32, some request, some (.submit 12 0xF80 commandBytes)) ∧
    (after sc 0x000000011000004C#64).map (·.pending) = some (some request) ∧
    (after { sc with regs := { sc.regs with tpmIdle := false, tpmSts := true } } 0x000000011800004C#64).map
      (fun t => (wordAt t.regs 0x044#12, ifState t)) = some (0x1#32, .busy) := by decide +kernel

/-- V182, V183, V184 ignored; V200, V201, V204 and V206: the length. -/
theorem test_wrStartInvoke_ignores_and_clamps :
    ignored { sc with regs := s0.regs } 0x000000011800004C#64 = true ∧ ignored sc 0x000000011800204C#64 = true ∧
    ignored sb 0x000000011800004C#64 = true ∧
    commandLen sr = 0 ∧ commandLen { sr with buf := [(5, 5#8)] } = 5 ∧ commandLen { sr with buf := [(4, 0x0F#8), (5, 0x81#8)] } = 0xF80 ∧
    (after { assigned s1 with buf := [(2, 0xFF#8), (3, 0xFF#8), (4, 0xFF#8), (5, 0xFF#8)] } 0x000000011800004C#64).map
      (fun t => t.pending.map (fun r => (r.inLen, r.outCap))) = some (some (0x10, 0x10)) := by decide +kernel

/-- V185, V186, V187 -/
theorem test_wrStartOther :
    ignored sb 0x000000001800004C#64 = true ∧ ignored sc 0x000000031800004C#64 = true ∧
    ignored sc 0xFFFFFFFF1800004C#64 = true := by decide +kernel

/-- V220, V221, V222, V223, V224 -/
theorem test_beWr :
    (after sb 0x0000000020000000#64).map (fun t => readByte t.buf 0) = some 0#8 ∧
    (after sb 0x000000AA20000F7F#64).map (fun t => (readByte t.buf 0xF7F, t.hist.getLast?))
      = some (0xAA#8, some (.beWrite 0xF7F 0xAA#8)) ∧
    held sb 0x0000000020000F80#64 = true ∧ held sb 0x0000000020000FFF#64 = true ∧ held sr 0x0000008020000000#64 = true := by
  decide +kernel

/-- V240, V244, V245, V246 -/
theorem test_beDoneOk :
    (after sb 0x0000000030000000#64).map
      (fun t => (wordAt t.regs 0x04C#12, wordAt t.regs 0x044#12, wordAt t.regs 0x000#12, t.pending, t.buf == command))
      = some (0#32, 0x2#32, 0x83#32, none, true) ∧
    held sr 0x0000000030000000#64 = true ∧
    wordAfter { sb with regs := { sb.regs with tpmSts := true } } 0x0000000030000000#64 0x044#12 = some 0x3#32 := by
  decide +kernel

/-- V241, V242, V243 -/
theorem test_beDoneFail :
    (after sb 0x0000000130000000#64).map (fun t => (wordAt t.regs 0x04C#12, wordAt t.regs 0x044#12, t.pending))
      = some (0#32, 0x3#32, none) ∧
    (after sb 0xFFFFFFFF30000000#64).map (fun t => t.hist.getLast?) = some (some (.complete 0xFFFFFFFF#32)) ∧
    wordAfter { sb with regs := { sb.regs with tpmIdle := false } } 0x0000000230000000#64 0x044#12 = some 0x1#32 := by
  decide +kernel

/-- V260, V261, V266: the state S0, faults kept. -/
theorem test_hostReset :
    (after { sc with faults := [⟨.access, 0x0000000008000002#64⟩] } 0x0000000040000000#64).map
      (fun t => (t.regs == s0.regs, t.buf, t.faults)) = some (true, [], [⟨.access, 0x0000000008000002#64⟩]) ∧
    (after sc 0x0000000040000000#64).map (fun t => t.hist.drop sc.hist.length)
      = some [.beReset, .startup 0xF80 true] ∧
    held sb 0x0000000040000000#64 = true := by decide +kernel

/-- V262, V264, V267 -/
theorem test_hostReset_fails :
    (after s0 0x0000000040000000#64 false).map (fun t => (t.terminated, t.faults, t.hist.drop s0.hist.length))
      = some (true, [⟨.terminated, 0x0000000040000000#64⟩],
          [.beReset, .startup 0xF80 false, .fault .terminated 0x0000000040000000#64]) ∧
    held sx 0x0000000040000000#64 = true ∧
    answer { s0 with cfg := { scenarioConfig with beMax := 5 } } 0x0000000040000000#64 = some (.refused .configBeMax) := by
  decide +kernel

/-- 44 R221: a backend's own header function brings its own bound; 00 R9: the floor of 6 stays (notes/assumptions/15). -/
theorem test_hostReset_bound :
    (let s (m least : Nat) : State := { s0 with cfg := { scenarioConfig with beMax := m, cmdLen := .backend 7 least } }
     answer (s 19 20) 0x0000000040000000#64 = some (.refused .configBeMax) ∧
       answer (s 20 20) 0x0000000040000000#64 = some .done ∧
       answer (s 5 2) 0x0000000040000000#64 = some (.refused .configBeMax)) := by decide +kernel

/-- SR after V80 and `CMDREADY 0`, whose snapshot section 3.15 writes out. -/
def saved : State :=
  { sr with
    regs := { sr.regs with tpmIdle := false }
    buf := [(0, 0x11#8), (1, 0x22#8), (2, 0x33#8), (3, 0x44#8)] }

/-- The snapshot `S` of section 3.15. -/
def snapS : Snapshot :=
  { words := [0x83, 0, 0, 0x1] ++ List.replicate 8 0 ++ [0x00025811, 0x00001014] ++ List.replicate 8 0
      ++ [0xF80, 0xFED44080, 0, 0xF80, 0xFED44080] ++ List.replicate 5 0
    bytes := { len := 0xF80, cells := saved.buf }
    n := 0xF80 }

/-- Section 3.15 and V280 -/
theorem test_hostSave :
    answer saved 0x0000000050000000#64 = some (.snapshot snapS) ∧
    (after saved 0x0000000050000000#64).map (fun t => (t.regs == saved.regs, t.buf == saved.buf, t.pending)) = some (true, true, none) ∧
    held sb 0x0000000050000000#64 = true := by decide +kernel

/-- V281, V286, V287 -/
theorem test_hostRestore :
    (after s0 0x0000000060000000#64 true (some snapS)).map
      (fun t => (wordAt t.regs 0x000#12, wordAt t.regs 0x00C#12, wordAt t.regs 0x044#12, readLE t.buf 0 4, t.hist.drop s0.hist.length))
      = some (0x83#32, 0x1#32, 0#32, 0x44332211#32, [.beReset, .startup 0xF80 true, .restore]) ∧
    (after s0 0x0000000060000000#64 false (some snapS)).map (fun t => (t.terminated, t.reply))
      = some (true, .faulted .terminated) ∧
    (after s0 0x0000000060000000#64 true (some { snapS with words := snapS.words.set 17 3#32 })).map
      (fun t => wordAt t.regs 0x044#12) = some 0x3#32 := by decide +kernel

/-- V282, V283, V284, V285: not admissible; and no snapshot at all. -/
theorem test_hostRestore_refuses :
    ([some { snapS with words := snapS.words.set 19 1#32 }, some { snapS with words := snapS.words.set 0 0x87#32 },
        some { snapS with words := snapS.words.set 3 0#32 }, none].map
      (fun snap => (after s0 0x0000000060000000#64 true snap).map (·.reply)))
      = List.replicate 4 (some (.refused .restoreSnapshot)) ∧
    (after s2 0x0000000060000000#64 true (some snapS)).map (·.reply) = some (.refused .restoreSnapshot) := by decide +kernel

/-- `withFetchWord`: the word of each row runs as the first transaction after reset (here HOST.RESTORE, of a snapshot of the state). -/
theorem test_withFetchWord :
    decodeTableWord 64 0x0000000060000000 = some .hostRestore ∧
    (match step (State.reset.withFetchWord 64 0x0000000118000008) with
      | .next t => wordAt t.regs 0x000#12 == 0x83#32
      | .fault _ => false
      | .refused _ => false) = true := by decide +kernel

/-! ## Witnesses: for every statement with hypotheses, operands and a state that meet them together, a clause at a time and at
the boundaries of its range -/

/-- BusReady: the last page, the last register byte, the last buffer byte, the last aligned buffer word, and in S1 the last two bytes. -/
theorem test_witness_busReady :
    BusReady s0 .b1 4#3 0x07F#12 ∧ BusReady s0 .b4 0#3 0x07C#12 ∧ BusReady s0 .b1 0#3 0xFFF#12 ∧ BusReady s0 .b4 4#3 0xFFC#12 ∧
    BusReady s1 .b2 0#3 0x08E#12 ∧ BusReady s0 .b4 0#3 0x080#12 ∧ BusReady s0 .b4 0#3 0x000#12 := by
  unfold BusReady
  decide +kernel

/-- The command offsets, from the first and the last page, in S0 and in SB. -/
theorem test_witness_busReady_commands :
    BusReady s0 .b1 0#3 0x008#12 ∧ BusReady sb .b4 4#3 0x008#12 ∧ BusReady s0 .b2 0#3 0x040#12 ∧ BusReady sb .b4 4#3 0x040#12 ∧
    BusReady s0 .b4 0#3 0x048#12 ∧ BusReady sb .b1 4#3 0x048#12 ∧ BusReady sc .b4 0#3 0x04C#12 ∧ BusReady sb .b4 1#3 0x04C#12 := by
  unfold BusReady
  decide +kernel

theorem test_witness_devInv_s0 : DevInv s0 := by
  constructor <;> decide +kernel

theorem test_witness_devInv_s1 : DevInv s1 := by
  constructor <;> decide +kernel

theorem test_witness_devInv_sc : DevInv sc := by
  constructor <;> decide +kernel

/-- With a request in flight. -/
theorem test_witness_devInv_sb : DevInv sb := by
  constructor <;> decide +kernel

theorem test_witness_histInv : HistInv s0 ∧ HistInv sb := by
  unfold HistInv
  decide +kernel

/-- DecodeEncodeRoundTrip, and the premise `wellFormed` elsewhere: a well-formed term of every constructor. -/
theorem test_witness_wellFormed :
    [Instr.rdReg .b4 0#3 0x07F#12, .rdBuf .b4 0#3 0x080#12, .wrLocRequest .b1 0#3, .wrLocRelinquish .b1 7#3, .wrLocSeize .b2 0#3,
      .wrLocResetEst .b4 0#3, .wrLocOther .b1 0#3 0xFF#32, .wrReqCmdReady .b1 0#3, .wrReqGoIdle .b1 0#3,
      .wrReqOther .b2 0#3 0xFFFF#32, .wrCancelCancel .b1 0#3, .wrCancelOther .b4 0#3 0xFFFFFFFF#32, .wrStartInvoke .b1 0#3,
      .wrStartOther .b1 0#3 0#32, .wrRegNoEffect .b1 0#3 0x07F#12 0xFF#32, .wrBuf .b4 0#3 0xFFF#12 0xFFFFFFFF#32, .beWr 0xFFF#12 0xFF#8,
      .beDoneOk, .beDoneFail 1#32, .hostReset, .hostSave, .hostRestore].map wellFormed = List.replicate 22 true := by decide +kernel

/-- StepRunsTheDecodedOffer, and StepRefusesIllFormedWords both clauses. -/
theorem test_witness_step :
    (offering s0 0x0000000118000008#64).offers = [⟨0x0000000118000008#64, none, some true⟩] ∧
    decode 0x0000000118000008#64 = .ok (.wrLocRequest .b4 0#3) ∧
    (offering s0 0x0000000070000000#64).offers = [⟨0x0000000070000000#64, none, some true⟩] ∧
    decode 0x0000000070000000#64 = .error .op ∧ s0.offers = [] := by decide +kernel

/-- EveryBusAccessIsChecked: each clause of `AccessChecked`, at the boundary of the window, of the alignment and of the buffer. -/
theorem test_witness_accessChecked :
    busAccess (.rdReg .b4 5#3 0x000#12) = some (.b4, 5#3, 0x000#12) ∧ sx.terminated = true ∧
    (s0.terminated = false ∧ 5 ≤ (5#3).toNat) ∧
    (s0.terminated = false ∧ (4#3).toNat < 5 ∧ (0x001#12).toNat % sizeBytes .b2 ≠ 0) ∧
    (s1.terminated = false ∧ (4#3).toNat < 5 ∧ (0x090#12).toNat % sizeBytes .b1 = 0 ∧ 0x80 ≤ (0x090#12).toNat ∧
      s1.n < (0x090#12).toNat - 0x80 + sizeBytes .b1) := by decide +kernel

/-- LaunchStateIsTheResetState, HostResetReinitializes, ConfigurationsBelowTheirBoundAreRefused: a device that takes a reset, one that is refused, one that is held. -/
theorem test_witness_hostReset :
    (sc.cfg = scenarioConfig ∧ sc.terminated = false ∧ sc.pending = none ∧ accepted scenarioConfig) ∧
    (offering sc 0x0000000040000000#64).startupArg = none ∧
    startupResult { sc with startupArg := some true } = true ∧
    (let s := { s0 with cfg := { scenarioConfig with beMax := 6 } }
     s.terminated = false ∧ s.pending = none ∧ 6 ≤ s.cfg.beMax) ∧
    (let s := { s0 with cfg := { scenarioConfig with beMax := 5 } }
     s.terminated = false ∧ s.pending = none ∧ s.cfg.cmdLen = .tpmHeader ∧ s.cfg.beMax < 6) ∧
    (let s := { s0 with cfg := { scenarioConfig with beMax := 19, cmdLen := .backend 7 20 } }
     s.terminated = false ∧ s.pending = none ∧ s.cfg.cmdLen = .backend 7 20 ∧ s.cfg.beMax < 20) ∧
    sx.terminated = true ∧ sb.pending ≠ none := by decide +kernel

/-- ReadRegisterReturnsLanes, ReadBufferReturnsBytes, WriteBufferStoresBytes, BufferWriteReadsBack: the last register offset, the
first and the last buffer offset, the largest value, a canonical buffer. -/
theorem test_witness_buffer :
    (0x07F#12).toNat < 0x80 ∧ 0x80 ≤ (0x080#12).toNat ∧ 0x80 ≤ (0xFFC#12).toNat ∧
    (0xFFFFFFFF#32).toNat < 2 ^ (8 * sizeBytes .b4) ∧ (0xFF#32).toNat < 2 ^ (8 * sizeBytes .b1) ∧ memWf sb.buf = true := by
  decide +kernel

/-- WritesWithoutEffect: values and offsets that meet all the exclusions together. -/
theorem test_witness_noEffect :
    (0xFF#32).toNat < 2 ^ (8 * sizeBytes .b1) ∧ 0xFF#32 ≠ 0x1#32 ∧ 0xFF#32 ≠ 0x2#32 ∧ 0xFF#32 ≠ 0x4#32 ∧ 0xFF#32 ≠ 0x8#32 ∧
    0#32 ≠ 0x1#32 ∧ (0x07F#12).toNat < 0x80 ∧ 0x07F#12 ≠ 0x008#12 ∧ 0x07F#12 ≠ 0x040#12 ∧ 0x07F#12 ≠ 0x048#12 ∧ 0x07F#12 ≠ 0x04C#12 := by
  decide +kernel

/-- CancelIsForwardedWhileBusy and InvokeStartsOrIsIgnored: each clause. -/
theorem test_witness_dispatcher :
    s0.regs.start = false ∧ (sb.regs.start = true ∧ sb.pending = some request) ∧ s0.regs.locAssigned = false ∧
    sc.regs.activeLocality ≠ 1#3 ∧ (sc.regs.start = false ∧ sc.regs.locAssigned = true ∧ sc.regs.activeLocality = 0#3) := by
  decide +kernel

/-- CommandLengthIsDeclaredAndClamped: both formats. -/
theorem test_witness_commandLength :
    scenarioConfig.cmdLen = .tpmHeader ∧ ({ scenarioConfig with cmdLen := .backend 7 20 } : Config).cmdLen = .backend 7 20 ∧
    sc.cfg = scenarioConfig ∧ sc.buf = command ∧ sc.n = 0xF80 := by decide +kernel

/-- OnlyPageZeroStartsCommands: a page other than 0, and a step that is taken. -/
theorem test_witness_otherPage :
    1#3 ≠ 0#3 ∧ (after sc 0x000000011800104C#64).isSome = true := by decide +kernel

/-- BackendWritesResponseByte: each clause, at the capacity's boundary. -/
theorem test_witness_beWr :
    sx.terminated = true ∧ s0.pending = none ∧ (sb.pending = some request ∧ request.outCap ≤ (0xF80#12).toNat) ∧
    (sb.terminated = false ∧ sb.pending = some request ∧ (0xF7F#12).toNat < request.outCap ∧ memWf sb.buf = true) := by decide +kernel

/-- CompletionOkClearsStart, CompletionFailLatchesError, CompletionRacesHaveBothOrders (with `test_witness_devInv_sb`). -/
theorem test_witness_completion :
    sx.terminated = true ∧ s0.pending = none ∧ (sb.terminated = false ∧ sb.pending ≠ none) ∧ 1#32 ≠ 0#32 ∧
    sb.pending = some request ∧ sb.regs.locAssigned = true := by decide +kernel

/-- HostSaveReturnsSnapshot, RestoreUndoesSave (with `test_witness_devInv_sc`): a device that is saved, and one it is restored into. -/
theorem test_witness_save :
    (sc.terminated = false ∧ sc.pending = none) ∧
    (let r := { s0 with snapArg := some (takeSnapshot sc), startupArg := some true }
     r.cfg = sc.cfg ∧ r.terminated = false ∧ r.pending = none ∧ r.snapArg = some (takeSnapshot sc) ∧ startupResult r = true) := by
  decide +kernel

/-- HostRestoreOverwrites, RestoreWithoutSnapshotIsRefused, AdmissibleMeansSavable: no snapshot, one that is not admissible, one that is. -/
theorem test_witness_restore :
    (s0.terminated = false ∧ s0.pending = none ∧ s0.snapArg = none) ∧
    admissible s0.cfg { snapS with words := snapS.words.set 19 1#32 } = false ∧
    (admissible s0.cfg snapS = true ∧ accepted s0.cfg ∧ ({ s0 with snapArg := some snapS } : State).snapArg = some snapS) := by
  decide +kernel

/-- RestoreNeedsAnAcceptedConfiguration: the snapshot of a device with a buffer of 5 bytes. -/
theorem test_witness_restore_small :
    (let s := State.init { scenarioConfig with beMax := 5 }
     s.terminated = false ∧ s.pending = none ∧ ({ s with snapArg := some (takeSnapshot s) } : State).snapArg = some (takeSnapshot s) ∧
       admissible s.cfg (takeSnapshot s) = true ∧ ¬ accepted s.cfg) := by decide +kernel

/-- EveryStepKeepsTheInvariants, EveryStepKeepsTheProtocol, FaultsAndMarksAreNeverUndone (with the witnesses of the invariants):
a step that is taken. -/
theorem test_witness_aStep : (after sb 0x0000000030000000#64).isSome = true ∧ (after s0 0x0000000008005000#64).isSome = true := by
  decide +kernel

/-- ReachableStatesAreSound: a state of a run, past the launch state. -/
theorem test_witness_reachable :
    Reachable scenarioConfig (offering s0 0x0000000118000008#64) := .offer _ _ (.launch (by decide))

/-- FlagsHaveNoOtherWriters: for each flag a step that sets it and one that clears it (the values before and after). -/
theorem test_witness_flags :
    (sc.regs.start = false ∧ (after sc 0x000000011800004C#64).map (·.regs.start) = some true) ∧
    (sb.regs.start = true ∧ (after sb 0x0000000030000000#64).map (·.regs.start) = some false) ∧
    (sb.regs.tpmSts = false ∧ (after sb 0x0000000130000000#64).map (·.regs.tpmSts) = some true) ∧
    (s0.regs.tpmIdle = true ∧ (after s0 0x0000000118000040#64).map (·.regs.tpmIdle) = some false) ∧
    (saved.regs.tpmIdle = false ∧ (after saved 0x0000000218000040#64).map (·.regs.tpmIdle) = some true) ∧
    (s0.regs.granted = false ∧ (after s0 0x0000000118000008#64).map (fun t => (t.regs.granted, t.regs.locAssigned)) = some (true, true)) ∧
    (sr.regs.granted = true ∧ (after sr 0x0000000218000008#64).map (fun t => (t.regs.granted, t.regs.locAssigned)) = some (false, false)) := by
  decide +kernel

/-- OnlyStoresChangeTheBuffer and BusSideEffectsAreExactlyTheCommands: a step that changes the buffer, and one that changes the request. -/
theorem test_witness_stores :
    (after s0 0x4433221118000080#64).map (fun t => readByte t.buf 0) = some 0x11#8 ∧ readByte s0.buf 0 = 0#8 ∧
    (after sc 0x000000011800004C#64).map (·.pending) = some (some request) ∧ sc.pending = none ∧
    busAccess (.wrBuf .b4 0#3 0x080#12 0x44332211#32) = some (.b4, 0#3, 0x080#12) := by decide +kernel

/-- EveryPageReadsTheSame, RepeatedAccessesAreIdempotent: two pages at the ends of the window, and an access made twice. -/
theorem test_witness_pages :
    (0#3).toNat < 5 ∧ (4#3).toNat < 5 ∧ agentOf (.wrStartInvoke .b4 0#3) = .bus ∧
    ((after sc 0x000000011800004C#64).bind (fun t => after t 0x000000011800004C#64)).isSome = true := by decide +kernel

/-- FatalLatchNeedsAReset: a latched device that is offered neither a reset nor a restore; InterfaceStateTransitions: each
premise (with `test_witness_busReady_commands` and `test_witness_devInv_sc`). -/
theorem test_witness_latch :
    (let s := { s0 with regs := { s0.regs with tpmSts := true } }
     (offering s 0x0000000118000040#64).regs.tpmSts = true ∧
       (after s 0x0000000118000040#64).map (·.regs.tpmSts) = some true) ∧
    decode 0x0000000118000040#64 ≠ .ok .hostReset ∧ decode 0x0000000118000040#64 ≠ .ok .hostRestore ∧
    activeLoc sc.regs = some 0#3 := by decide +kernel

/-! All the hypotheses of one statement together, where an invariant or a taken step is among them. -/

/-- The next state of an outcome, if it is one. -/
def nextOf : Host.Outcome State Fault Refusal → Option State
  | .next t => some t
  | .fault _ => none
  | .refused _ => none

theorem eq_next_of {o : Host.Outcome State Fault Refusal} {t : State} (h : nextOf o = some t) : o = .next t := by
  cases o <;> simp_all [nextOf]

theorem next_of_isSome {o : Host.Outcome State Fault Refusal} (h : (nextOf o).isSome = true) : ∃ t, o = .next t :=
  (Option.isSome_iff_exists.1 h).imp fun _ => eq_next_of

/-- The state an outcome leads to, where it is a next state. -/
def left (o : Host.Outcome State Fault Refusal) : State := (nextOf o).getD s0

/-- OnlyPageZeroStartsCommands. -/
theorem test_together_otherPage :
    DevInv sc ∧ (1#3 : Page) ≠ 0#3 ∧ ∃ t, exec (.wrStartInvoke .b4 1#3) sc = .next t :=
  ⟨test_witness_devInv_sc, by decide, next_of_isSome (by decide +kernel)⟩

/-- RepeatedAccessesAreIdempotent: a transaction made twice, and a request pending after the first. -/
theorem test_together_repeated :
    DevInv sb ∧ agentOf (.wrCancelCancel .b4 0#3) = .bus ∧ wellFormed (.wrCancelCancel .b4 0#3) = true ∧
      ∃ t u, exec (.wrCancelCancel .b4 0#3) sb = .next t ∧ exec (.wrCancelCancel .b4 0#3) t = .next u ∧ t.pending ≠ none :=
  ⟨test_witness_devInv_sb, rfl, rfl, left (exec (.wrCancelCancel .b4 0#3) sb),
    left (exec (.wrCancelCancel .b4 0#3) (left (exec (.wrCancelCancel .b4 0#3) sb))),
    eq_next_of (by decide +kernel), eq_next_of (by decide +kernel), by decide +kernel⟩

/-- InterfaceStateTransitions: an INVOKE that is accepted, a completion, and a transaction that leaves the interface state. -/
theorem test_together_interface :
    (DevInv sc ∧ sc.terminated = false ∧ (∃ t, exec (.wrStartInvoke .b4 0#3) sc = .next t) ∧
      BusReady sc .b4 0#3 0x04C#12 ∧ activeLoc sc.regs = some 0#3) ∧
    (DevInv sb ∧ sb.terminated = false ∧ ∃ t, exec .beDoneOk sb = .next t) ∧
    (∃ t, exec .hostReset sc = .next t) ∧ (∃ t, exec (.wrReqCmdReady .b4 0#3) sc = .next t) ∧
    (∃ t, exec (.wrReqGoIdle .b4 0#3) sc = .next t) ∧ ∃ t, exec (.wrLocRequest .b4 0#3) sc = .next t := by
  have h4C : BusReady sc .b4 0#3 0x04C#12 := by unfold BusReady; decide +kernel
  have h := @next_of_isSome
  exact ⟨⟨test_witness_devInv_sc, rfl, h (by decide +kernel), h4C, by decide +kernel⟩,
    ⟨test_witness_devInv_sb, rfl, h (by decide +kernel)⟩, h (by decide +kernel), h (by decide +kernel),
    h (by decide +kernel), h (by decide +kernel)⟩

/-- CompletionRacesHaveBothOrders: both completions, the active locality's page, a buffer write at the boundary of the command
(its last byte marks the request, the byte after does not), and an index inside the write; BackendByteRacesHaveBothOrders. -/
theorem test_together_races :
    DevInv sb ∧ sb.terminated = false ∧ sb.pending = some request ∧ (4#3).toNat < 5 ∧ activeLoc sb.regs = some 0#3 ∧ 1#32 ≠ 0#32 ∧
      (BusReady sb .b1 0#3 0x08B#12 ∧ 0x8B - 0x80 < request.inLen) ∧
      (BusReady sb .b1 4#3 0x08C#12 ∧ ¬ 0x8C - 0x80 < request.inLen) ∧
      (BusReady sb .b4 4#3 0xFFC#12 ∧ 0x80 ≤ (0xFFC#12).toNat ∧ (0xFFC#12).toNat - 0x80 ≤ (0xF7F#12).toNat ∧
        (0xF7F#12).toNat < (0xFFC#12).toNat - 0x80 + sizeBytes .b4) ∧
      (3 < sizeBytes .b4 ∧ (0xF7F#12).toNat = (0xFFC#12).toNat - 0x80 + 3) := by
  refine ⟨test_witness_devInv_sb, ?_⟩
  unfold BusReady
  decide +kernel

/-- RestoreUndoesSave, AdmissibleMeansSavable. -/
theorem test_together_saves :
    (DevInv sc ∧ sc.terminated = false ∧ sc.pending = none ∧
      ∃ r : State, r.cfg = sc.cfg ∧ r.terminated = false ∧ r.pending = none ∧ r.snapArg = some (takeSnapshot sc) ∧
        startupResult r = true) :=
  ⟨test_witness_devInv_sc, rfl, rfl,
    { s0 with snapArg := some (takeSnapshot sc), startupArg := some true }, rfl, rfl, rfl, rfl, rfl⟩

/-- EveryStepKeepsTheInvariants and EveryStepKeepsTheProtocol: a step of a state that meets both invariants. -/
theorem test_together_step : DevInv sb ∧ HistInv sb ∧ ∃ t, step sb = .next t :=
  ⟨test_witness_devInv_sb, test_witness_histInv.2, _, rfl⟩

/-- ReadRegisterReturnsLanes, ReadBufferReturnsBytes, WriteBufferStoresBytes, BufferWriteReadsBack. -/
theorem test_together_buffer :
    ((0x07F#12).toNat < 0x80 ∧ BusReady s0 .b1 4#3 0x07F#12) ∧
    (0x80 ≤ (0xFFC#12).toNat ∧ (0xFFFFFFFF#32).toNat < 2 ^ (8 * sizeBytes .b4) ∧ BusReady sb .b4 0#3 0xFFC#12 ∧
      BusReady sb .b4 4#3 0xFFC#12 ∧ memWf sb.buf = true) := by
  unfold BusReady
  decide +kernel

/-- OnlyACompletionEndsARequest: a step that leaves the request slot empty. -/
theorem test_together_completion :
    sb.pending ≠ none ∧ ∃ t, step (offering sb 0x0000000030000000#64) = .next t ∧ t.pending = none :=
  ⟨by decide, left (step (offering sb 0x0000000030000000#64)), eq_next_of (by decide +kernel), by decide +kernel⟩

/-- RunsKeepTheInvariants, RunsStopOnlyAtTheirEnd, AStalledBackendIsAHang: a program of one poll loop, run from the launch state to
its end, which has no step left; a point short of its end; and a claim that the run's end meets. -/
theorem test_together_run :
    isLaunch scenarioConfig s0 ∧ isProgram [.pollLoop 4#3] ∧
      (∃ t, endsIn [.pollLoop 4#3] s0 t ∧ RunPoint.ended ⟨[], t⟩ ∧ clean t = true) ∧
      ¬ RunPoint.ended ⟨[.pollLoop 4#3], s0⟩ ∧ (DevInv sb ∧ sb.terminated = false ∧ sb.pending ≠ none ∧ (4#3).toNat < 5) := by
  let t := left (step { s0 with offers := [⟨driverWord (.pollLoop 4#3), none, none⟩] })
  have ht : takes s0 ⟨driverWord (.pollLoop 4#3), none, none⟩ t := ⟨eq_next_of (by decide +kernel), by decide +kernel⟩
  have hp : t.pending = none := by decide +kernel
  have hw : isBusWord (driverWord (.pollLoop 4#3)) := by unfold isBusWord; decide +kernel
  have hf : finishes (.pollLoop 4#3) t = true := by decide +kernel
  have hm := Move.driver (.pollLoop 4#3) [] s0 t hw ht
  rw [hf] at hm
  exact ⟨.inl ⟨by decide, rfl⟩, fun op h => List.mem_singleton.1 h ▸ hw,
    ⟨t, ⟨.single hm, hp⟩, ⟨rfl, hp⟩, by decide +kernel⟩, (fun h => List.cons_ne_nil _ _ h.1), test_witness_devInv_sb, by decide⟩

end Sys2Proof.Tests
end

namespace Sys2Proof.Machine

open Sys2Proof.Safety

/-- The step on an offer whose word decodes (00 R7): the instruction runs on the state that took the offer, nothing around it. -/
theorem step_of_decode_ok {s : State} {o : Offer} {rest : List Offer} {i : Instr} (ho : s.offers = o :: rest)
    (hd : decode o.word = .ok i) : step s = exec i (s.takeOffer o rest) := by
  simp [step, ho, hd]

/-- The step on an offer whose word is ill-formed (60 R256): the refusal that names the check. -/
theorem step_of_decode_error {s : State} {o : Offer} {rest : List Offer} {c : WfCheck} (ho : s.offers = o :: rest)
    (hd : decode o.word = .error c) : step s = .next ((s.takeOffer o rest).refuse (.illFormed c)) := by
  simp [step, ho, hd]

/-- With nothing offered the state stays (60 R259). -/
theorem step_of_no_offer {s : State} (ho : s.offers = []) : step s = .next s := by
  simp [step, ho]

/-- Whatever the access check says, a bus transaction ends in a next state: the hold, the recorded fault or its effect (40 R130). -/
theorem exists_busTx_eq_next (t : TxWord) (size : Size) (page : Page) (off : Offset) (s effect : State) :
    ∃ u, busTx t size page off s effect = .next u := by
  unfold busTx
  cases accessCheck s size page off with
  | held => exact ⟨s.hold, rfl⟩
  | fault code => exact ⟨s.raise code t, rfl⟩
  | ok => exact ⟨effect, rfl⟩

/-- A bus instruction runs in the shell `busTx`, on its own word and the size, page and offset of its access (40 R130). -/
theorem exists_exec_eq_busTx {i : Instr} {size : Size} {page : Page} {off : Offset}
    (h : busAccess i = some (size, page, off)) (s : State) :
    ∃ effect, exec i s = busTx (encode i) size page off s effect := by
  cases i <;> cases h <;> exact ⟨_, rfl⟩

/-- No arm of `exec` answers `fault` or `refused`: the bus instructions go through `busTx`, and the backend's and the host's
transactions answer a next state as they stand. -/
theorem exists_exec_eq_next (i : Instr) (s : State) : ∃ u, exec i s = .next u := by
  cases hb : busAccess i with
  | some a =>
    obtain ⟨effect, he⟩ := exists_exec_eq_busTx hb s
    rw [he]
    exact exists_busTx_eq_next ..
  | none =>
    cases i with
    | beWr | beDoneOk | beDoneFail | hostReset | hostSave | hostRestore => exact ⟨_, rfl⟩
    | _ => cases hb

/-- Every step ends in a next state: nothing offered, an ill-formed word refused by name, or an instruction run. -/
theorem exists_step_eq_next (s : State) : ∃ u, step s = .next u := by
  cases ho : s.offers with
  | nil => exact ⟨s, step_of_no_offer ho⟩
  | cons o rest =>
    cases hd : decode o.word with
    | error c => exact ⟨_, step_of_decode_error ho hd⟩
    | ok i =>
      rw [step_of_decode_ok ho hd]
      exact exists_exec_eq_next i _

/-- Settles O7: `takeOffer` moves the offer's operands beside the word and is all that stands around `exec`. -/
theorem stepRunsTheDecodedOffer : Obligations.StepRunsTheDecodedOffer :=
  fun _ _ _ _ ho hd => step_of_decode_ok ho hd

/-- Settles O9: by the arms of `exec`, and for the step by the first offer and its word's decoding. -/
theorem everyTransactionEndsInANextState : Obligations.EveryTransactionEndsInANextState :=
  ⟨exists_exec_eq_next, exists_step_eq_next⟩

end Sys2Proof.Machine

namespace Sys2Proof.Safety

open Sys2Proof.Machine

/-! ## What a transaction can do to the device

`exec_effect` goes through the arms of `exec` once. The invariants, the protocol of the history, the writers of the flags
and the fixed registers are each a case split on its result. -/

/-- A step that leaves every device field: a hold, a fault of the access check, a refusal, a read, or a bus write of which
only the event is left (60 R251, R253, R258, R259). -/
inductive Quiet (s : State) : State → Prop
  | held : Quiet s s.hold
  | faulted (code : Fault) (t : TxWord) : Quiet s (s.raise code t)
  | refused (reason : Refusal) : Quiet s (s.refuse reason)
  | read (size : Size) (page : Page) (off : Offset) (v : Word) : Quiet s (s.readBack size page off v)
  | wrote (size : Size) (page : Page) (off : Offset) (v : Word) : Quiet s (s.wrote size page off v)

/-- Every next state a transaction has, with the guard it was reached under: a quiet step, or the effect that the
transaction's own rule names. A failed startup keeps the reset's writes (44 R223). -/
inductive Effect (s : State) : Instr → State → Prop
  | quiet {i : Instr} {u : State} : Quiet s u → Effect s i u
  | granted {size : Size} {page : Page} : BusReady s size page offLocCtrl →
      Effect s (.wrLocRequest size page)
        ((s.setRegs { s.regs with granted := true, beenSeized := false, locAssigned := true }).wrote
          size page offLocCtrl tokRequestAccess)
  | relinquished {size : Size} {page : Page} : BusReady s size page offLocCtrl →
      Effect s (.wrLocRelinquish size page)
        ((s.setRegs { s.regs with locAssigned := false, granted := false }).wrote size page offLocCtrl tokRelinquish)
  | readied {size : Size} {page : Page} : BusReady s size page offCtrlReq →
      Effect s (.wrReqCmdReady size page)
        ((s.setRegs { s.regs with tpmIdle := false }).wrote size page offCtrlReq tokCmdReady)
  | idled {size : Size} {page : Page} : BusReady s size page offCtrlReq →
      Effect s (.wrReqGoIdle size page)
        ((s.setRegs { s.regs with tpmIdle := true }).wrote size page offCtrlReq tokGoIdle)
  | cancelled {size : Size} {page : Page} : BusReady s size page offCtrlCancel → s.regs.start = true →
      Effect s (.wrCancelCancel size page) (s.wrote size page offCtrlCancel tokCancel).forwardCancel
  | submitted {size : Size} {page : Page} : BusReady s size page offCtrlStart → s.regs.start = false →
      activeLoc s.regs = some page →
      Effect s (.wrStartInvoke size page) ((s.wrote size page offCtrlStart tokInvoke).submitCommand page)
  | stored {size : Size} {page : Page} {off : Offset} {v : Word} : BusReady s size page off →
      Effect s (.wrBuf size page off v)
        (((s.setBuf (writeLE s.buf (bufIndex off) (sizeBytes size) v)).setPending
          (raceMark (bufIndex off) s.pending)).wrote size page off v)
  | responded {index : Offset} {byte : Byte} {r : Request} : s.terminated = false → s.pending = some r →
      index.toNat < r.outCap →
      Effect s (.beWr index byte)
        (((s.setBuf (writeByte s.buf index.toNat byte)).emit (.beWrite index.toNat byte)).setReply .done)
  | doneOk : s.terminated = false → s.pending ≠ none → Effect s .beDoneOk (s.complete 0#32 false)
  | doneFail {status : Word} : s.terminated = false → s.pending ≠ none →
      Effect s (.beDoneFail status) (s.complete status true)
  | saved : s.terminated = false → s.pending = none →
      Effect s .hostSave ((s.emit .save).setReply (.snapshot (takeSnapshot s)))
  | reset : s.terminated = false → s.pending = none → accepted s.cfg → Effect s .hostReset (s.resetDevice true)
  | restored {snap : Snapshot} : s.terminated = false → s.pending = none → accepted s.cfg →
      s.snapArg = some snap → admissible s.cfg snap = true →
      Effect s .hostRestore ((s.resetDevice true).overwrite snap)
  | startupFailed {i : Instr} {t : TxWord} : i = .hostReset ∨ i = .hostRestore →
      s.terminated = false → s.pending = none → accepted s.cfg →
      Effect s i ((s.resetDevice false).startupFailed t)

section Inversion

variable {i : Instr} {s u : State}

/-- A bus transaction is quiet where the access check stops it, and has its rule's effect where it is ready (40 R130). -/
theorem effect_of_busTx {t : TxWord} {size : Size} {page : Page} {off : Offset} {e : State}
    (h : busTx t size page off s e = .next u) (he : BusReady s size page off → Effect s i e) : Effect s i u := by
  obtain ⟨-, rfl⟩ | ⟨-, code, rfl⟩ | ⟨hr, rfl⟩ := busTx_cases h
  · exact .quiet .held
  · exact .quiet (.faulted code t)
  · exact he hr

/-- A bus write without effect is quiet (40 R134). -/
theorem effect_of_ignoredWrite {t : TxWord} {size : Size} {page : Page} {off : Offset} {v : Word}
    (h : ignoredWrite t size page off v s = .next u) : Effect s i u :=
  effect_of_busTx h fun _ => .quiet (.wrote size page off v)

/-- A host transaction is held, or has its effect on a drained device (60 R259). -/
theorem effect_of_hostTx {e : State} (h : hostTx s e = .next u)
    (he : s.terminated = false → s.pending = none → Effect s i e) : Effect s i u := by
  obtain ⟨-, rfl⟩ | ⟨ht, hp, rfl⟩ := hostTx_cases h
  · exact .quiet .held
  · exact he ht hp

/-- The reset part of a host transaction: refused, completed, or ended in a failed startup (44 R220 to R223). -/
theorem effect_of_resetTx {t : TxWord} {after : State → State} (hi : i = .hostReset ∨ i = .hostRestore)
    (ht : s.terminated = false) (hp : s.pending = none)
    (he : accepted s.cfg → Effect s i (after (s.resetDevice true))) : Effect s i (resetTx t s after) := by
  obtain ⟨-, h⟩ | ⟨ha, -, h⟩ | ⟨ha, -, h⟩ := resetTx_cases t s after <;> rw [h]
  · exact .quiet (.refused _)
  · exact he ha
  · exact .startupFailed hi ht hp ha

/-- Everything a transaction can do: the arms of `exec`, one by one. -/
theorem exec_effect (h : exec i s = .next u) : Effect s i u := by
  cases i with
  | rdReg | rdBuf => exact effect_of_busTx h fun _ => .quiet (.read ..)
  | wrLocRequest => exact effect_of_busTx h .granted
  | wrLocRelinquish => exact effect_of_busTx h .relinquished
  | wrReqCmdReady => exact effect_of_busTx h .readied
  | wrReqGoIdle => exact effect_of_busTx h .idled
  | wrLocSeize | wrLocResetEst | wrLocOther | wrReqOther | wrCancelOther | wrStartOther | wrRegNoEffect =>
    exact effect_of_ignoredWrite h
  | wrCancelCancel =>
    refine effect_of_busTx h fun hr => ?_
    split
    · exact .cancelled hr ‹_›
    · exact .quiet (.wrote ..)
  | wrStartInvoke =>
    refine effect_of_busTx h fun hr => ?_
    split_ifs with hs ha
    · exact .quiet (.wrote ..)
    · exact .quiet (.wrote ..)
    · exact .submitted hr (by simpa using hs) (by simpa using ha)
  | wrBuf => exact effect_of_busTx h .stored
  | beWr =>
    obtain rfl | ⟨r, ht, hp, hlt, rfl⟩ := execBeWr_cases h
    · exact .quiet .held
    · exact .responded ht hp hlt
  | beDoneOk =>
    obtain ⟨-, rfl⟩ | ⟨ht, hp, rfl⟩ := completionTx_cases h
    · exact .quiet .held
    · exact .doneOk ht hp
  | beDoneFail =>
    obtain ⟨-, rfl⟩ | ⟨ht, hp, rfl⟩ := completionTx_cases h
    · exact .quiet .held
    · exact .doneFail ht hp
  | hostSave => exact effect_of_hostTx h .saved
  | hostReset => exact effect_of_hostTx h fun ht hp => effect_of_resetTx (.inl rfl) ht hp (.reset ht hp)
  | hostRestore =>
    refine effect_of_hostTx h fun ht hp => ?_
    obtain hr | ⟨snap, hs, ha, hr⟩ := restoreTx_cases (encode .hostRestore) s <;> rw [hr]
    · exact .quiet (.refused _)
    · exact effect_of_resetTx (.inr rfl) ht hp fun hacc => .restored ht hp hacc hs ha

end Inversion

/-! ## The invariants -/

section Invariants

variable {i : Instr} {s u : State}

theorem Quiet.sameDevice (h : Quiet s u) : sameDevice s u := by
  cases h <;> exact ⟨rfl, rfl, rfl, rfl⟩

theorem Quiet.cfg_eq (h : Quiet s u) : u.cfg = s.cfg := by
  cases h <;> rfl

theorem Quiet.regs_eq (h : Quiet s u) : u.regs = s.regs := h.sameDevice.1

/-- A quiet step keeps the invariants, which speak of the configuration and the device fields only. -/
theorem Quiet.devInv (h : Quiet s u) (hs : DevInv s) : DevInv u := devInv_congr h.cfg_eq h.sameDevice hs

/-- The two halves of the published buffer address make it up (44 R222). -/
theorem bufferAddr_halves (cfg : Config) :
    (bufferAddr cfg).extractLsb' 32 32 ++ (bufferAddr cfg).extractLsb' 0 32 = cfg.baseAddr + 0x80#64 := by
  show _ = bufferAddr cfg
  apply BitVec.eq_of_toNat_eq
  have := (bufferAddr cfg).isLt
  rw [append_toNat, BitVec.extractLsb'_toNat, BitVec.extractLsb'_toNat, Nat.shiftRight_eq_div_pow]
  omega

/-- A device as the reset of an accepted configuration leaves it meets the invariants (44 R220 to R222). -/
theorem devInv_of_resetRegs (hr : s.regs = resetRegs s.cfg) (hb : s.buf = []) (hn : s.n = negotiated s.cfg)
    (hp : s.pending = none) (ha : accepted s.cfg) : DevInv s where
  startIffPending := by rw [hr, hp]; rfl
  cmdSizeIsN := by rw [hr, hn]; rfl
  rspSizeIsN := by rw [hr, hn]; rfl
  nNegotiated := hn
  cfgAccepted := ha
  activeZero := by rw [hr]; rfl
  neverSeized := by rw [hr]; rfl
  established := by rw [hr]; rfl
  regValid := by rw [hr]; rfl
  grantedIffAssigned := by rw [hr]; rfl
  intfIdFixed := by rw [hr]; rfl
  intfId2Fixed := by rw [hr]; rfl
  cmdAddrFixed := by rw [hr]; exact bufferAddr_halves s.cfg
  rspAddrFixed := by rw [hr]; exact bufferAddr_halves s.cfg
  requestFits := by simp [hp]
  bufCanonical := by rw [hb]; rfl
  bufBounded := by rw [hb]; rfl

/-- The reset of a drained device of an accepted configuration meets the invariants. -/
theorem devInv_resetDevice (hp : s.pending = none) (ha : accepted s.cfg) (ok : Bool) : DevInv (s.resetDevice ok) :=
  devInv_of_resetRegs rfl rfl rfl hp ha

/-- What the overwrite of a restore needs of an admissible snapshot: its Granted bit is its locAssigned bit, and its bytes
are a buffer of the negotiated size (44 R227). -/
theorem admissible_parts {cfg : Config} {snap : Snapshot} (h : admissible cfg snap = true) :
    (snapWord snap 3).getLsbD 0 = (snapWord snap 0).getLsbD 1 ∧ memWf snap.bytes.cells = true ∧
      memBelow snap.bytes.cells (negotiated cfg) = true := by
  simp only [admissible, Bool.and_eq_true, decide_eq_true_eq, beq_iff_eq] at h
  obtain ⟨⟨⟨⟨⟨⟨⟨⟨⟨hn, hlen⟩, hwf⟩, hbelow⟩, -⟩, -⟩, hgranted⟩, -⟩, -⟩, -⟩ := h
  refine ⟨?_, hwf, by rwa [hlen, hn] at hbelow⟩
  rw [hgranted]
  simp

/-- The overwrite of a restore puts an admissible snapshot's flags and bytes into a device that meets the invariants. -/
theorem DevInv.overwrite {snap : Snapshot} (hs : DevInv s) (ha : admissible s.cfg snap = true) :
    DevInv (s.overwrite snap) := by
  obtain ⟨hgranted, hwf, hbelow⟩ := admissible_parts ha
  have hn : s.n = negotiated s.cfg := hs.nNegotiated
  exact { hs with grantedIffAssigned := hgranted, bufCanonical := hwf, bufBounded := by rw [← hn] at hbelow; exact hbelow }

/-- A raced mark keeps the request's sizes. -/
theorem raceMark_fits {k n : Nat} {p : Option Request} (h : ∀ r, p = some r → r.outCap = n ∧ r.inLen ≤ n) :
    ∀ r, raceMark k p = some r → r.outCap = n ∧ r.inLen ≤ n := by
  rintro r hr
  cases p with
  | none => cases hr
  | some q =>
    obtain ⟨hcap, hlen⟩ := h q rfl
    simp only [raceMark] at hr
    split at hr <;> cases hr <;> exact ⟨hcap, hlen⟩

@[simp] theorem raceMark_isSome (k : Nat) (p : Option Request) : (raceMark k p).isSome = p.isSome := by
  cases p with
  | none => rfl
  | some q => simp only [raceMark]; split <;> rfl

/-- The bytes of a ready access lie inside the buffer. An offset of the register area counts as index 0 (`bufIndex`), so there
the buffer must have the four bytes of the largest access. -/
theorem BusReady.bufIndex_le {size : Size} {page : Page} {off : Offset} (h : BusReady s size page off) (hn : 4 ≤ s.n) :
    bufIndex off + sizeBytes size ≤ s.n := by
  obtain ⟨-, -, -, hb⟩ := h
  have := (sizeBytes_bounds size).2
  unfold bufIndex bufOff
  by_cases ho : 0x80 ≤ off.toNat
  · exact hb ho
  · omega

/-- The buffer of a device that meets the invariants holds at least the six bytes of 44 R221. -/
theorem DevInv.six_le_n (h : DevInv s) : 6 ≤ s.n := by
  have := h.cfgAccepted.six_le
  have := h.nNegotiated
  omega

/-- Every effect keeps the invariants (10 R45). -/
theorem Effect.devInv (h : Effect s i u) (hs : DevInv s) : DevInv u := by
  cases h with
  | quiet hq => exact hq.devInv hs
  | granted => exact { hs with neverSeized := rfl, grantedIffAssigned := rfl }
  | relinquished => exact { hs with grantedIffAssigned := rfl }
  | readied | idled => exact { hs with }
  | cancelled =>
    refine { hs with startIffPending := hs.startIffPending.trans Option.isSome_map.symm, requestFits := fun r hr => ?_ }
    obtain ⟨q, hq, rfl⟩ := Option.map_eq_some_iff.1 hr
    exact hs.requestFits q hq
  | submitted =>
    refine { hs with startIffPending := rfl, requestFits := ?_ }
    rintro r ⟨⟩
    exact ⟨rfl, Nat.min_le_right _ _⟩
  | stored hr =>
    have hn := hs.six_le_n
    exact { hs with
      startIffPending := hs.startIffPending.trans (raceMark_isSome _ _).symm
      requestFits := raceMark_fits hs.requestFits
      bufCanonical := memWf_writeLE hs.bufCanonical _ _ _
      bufBounded := memBelow_writeLE hs.bufBounded (hr.bufIndex_le (by omega)) _ }
  | responded _ hp hlt =>
    have hcap := (hs.requestFits _ hp).1
    exact { hs with
      bufCanonical := memWf_writeByte hs.bufCanonical _ _
      bufBounded := memBelow_writeByte hs.bufBounded (hcap ▸ hlt) _ }
  | doneOk | doneFail => exact { hs with startIffPending := rfl, requestFits := nofun }
  | saved => exact devInv_congr (s := s) rfl ⟨rfl, rfl, rfl, rfl⟩ hs
  | reset _ hp ha => exact devInv_resetDevice hp ha true
  | restored _ hp ha _ hadm => exact (devInv_resetDevice hp ha true).overwrite hadm
  | startupFailed _ _ hp ha =>
    exact devInv_congr (s := s.resetDevice false) rfl ⟨rfl, rfl, rfl, rfl⟩ (devInv_resetDevice hp ha false)

/-- Taking an offer leaves the device as it is. -/
theorem devInv_takeOffer (hs : DevInv s) (o : Offer) (rest : List Offer) : DevInv (s.takeOffer o rest) :=
  devInv_congr (s := s) rfl ⟨rfl, rfl, rfl, rfl⟩ hs

/-- Every step keeps the invariants: nothing offered, an ill-formed word refused, or the effect of a transaction. -/
theorem step_devInv (h : step s = .next u) (hs : DevInv s) : DevInv u := by
  obtain ⟨-, rfl⟩ | ⟨o, rest, -, ⟨c, -, rfl⟩ | ⟨i, -, hi⟩⟩ := step_cases h
  · exact hs
  · exact (Quiet.refused (.illFormed c)).devInv (devInv_takeOffer hs o rest)
  · exact (exec_effect hi).devInv (devInv_takeOffer hs o rest)

end Invariants

/-- Settles O38: every effect of a transaction keeps the invariants, and so does taking the offer. -/
theorem everyStepKeepsTheInvariants : Obligations.EveryStepKeepsTheInvariants :=
  fun _ _ hs h => step_devInv h hs

/-! ## The protocol of the history -/

section Protocol

variable {i : Instr} {s u : State}

/-- A quiet step appends at most one event, which the protocol lets pass at any time. -/
theorem Quiet.histInv (h : Quiet s u) (hh : HistInv s) : HistInv u := by
  cases h with
  | held => exact hh
  | faulted | refused | read | wrote => exact histInv_append [_] rfl rfl hh

/-- A reset of a drained device keeps the protocol. -/
theorem histInv_resetDevice (hp : s.pending = none) (hh : HistInv s) (ok : Bool) : HistInv (s.resetDevice ok) :=
  histInv_append [_, _] rfl (by simp [hp, trackBusy]) hh

/-- Every effect appends events that lead from the old request slot to the new one (43 R203, R204, 60 R259). -/
theorem Effect.histInv (h : Effect s i u) (hs : DevInv s) (hh : HistInv s) : HistInv u := by
  have hslot := hs.startIffPending
  cases h with
  | quiet hq => exact hq.histInv hh
  | granted | relinquished | readied | idled => exact histInv_append (s := s) [_] rfl rfl hh
  | cancelled _ hstart =>
    refine histInv_append (s := s) [_, _] (List.append_assoc ..) ?_ hh
    simp [State.forwardCancel, State.wrote, trackBusy, ← hslot, hstart]
  | submitted _ hstart =>
    refine histInv_append (s := s) [_, _] (List.append_assoc ..) ?_ hh
    simp [State.submitCommand, trackBusy, ← hslot, hstart]
  | stored => exact histInv_append (s := s) [_] rfl (by simp [State.wrote, trackBusy]) hh
  | responded _ hp => exact histInv_append (s := s) [_] rfl (by simp [hp, trackBusy]) hh
  | doneOk _ hp | doneFail _ hp =>
    obtain ⟨r, hr⟩ := Option.ne_none_iff_exists'.1 hp
    exact histInv_append (s := s) [_] rfl (by simp [State.complete, hr, trackBusy]) hh
  | saved _ hp => exact histInv_append (s := s) [_] rfl (by simp [hp, trackBusy]) hh
  | reset _ hp => exact histInv_resetDevice hp hh true
  | restored _ hp =>
    exact histInv_append (s := s.resetDevice true) [_] rfl (by simp [State.overwrite, hp, trackBusy])
      (histInv_resetDevice hp hh true)
  | startupFailed _ _ hp => exact histInv_append (s := s.resetDevice false) [_] rfl rfl (histInv_resetDevice hp hh false)

/-- Every step keeps the protocol. -/
theorem step_histInv (h : step s = .next u) (hs : DevInv s) (hh : HistInv s) : HistInv u := by
  obtain ⟨-, rfl⟩ | ⟨o, rest, -, ⟨c, -, rfl⟩ | ⟨i, -, hi⟩⟩ := step_cases h
  · exact hh
  · exact (Quiet.refused (s := s.takeOffer o rest) (.illFormed c)).histInv hh
  · exact (exec_effect hi).histInv (devInv_takeOffer hs o rest) hh

end Protocol

/-! ## Fixed fields, the launch state and the runs -/

section Runs

variable {i : Instr} {s u : State}

theorem Effect.cfg_eq (h : Effect s i u) : u.cfg = s.cfg := by
  cases h with
  | quiet hq => exact hq.cfg_eq
  | _ => rfl

theorem step_cfg_eq (h : step s = .next u) : u.cfg = s.cfg := by
  obtain ⟨-, rfl⟩ | ⟨o, rest, -, ⟨c, -, rfl⟩ | ⟨i, -, hi⟩⟩ := step_cases h
  · rfl
  · rfl
  · exact (exec_effect hi).cfg_eq

theorem devInv_init {cfg : Config} (ha : accepted cfg) : DevInv (State.init cfg) :=
  devInv_of_resetRegs rfl rfl rfl rfl ha

theorem histInv_init (cfg : Config) : HistInv (State.init cfg) := rfl

/-- In every state of every run the configuration is the run's, and the invariants and the protocol hold. -/
theorem Reachable.sound {cfg : Config} (h : Reachable cfg s) : accepted cfg ∧ s.cfg = cfg ∧ DevInv s ∧ HistInv s := by
  induction h with
  | launch ha => exact ⟨ha, rfl, devInv_init ha, histInv_init cfg⟩
  | offer s os _ ih =>
    obtain ⟨ha, hc, hs, hh⟩ := ih
    exact ⟨ha, hc, devInv_congr (s := s) rfl ⟨rfl, rfl, rfl, rfl⟩ hs, hh⟩
  | step s t _ hst ih =>
    obtain ⟨ha, hc, hs, hh⟩ := ih
    exact ⟨ha, (step_cfg_eq hst).trans hc, step_devInv hst hs, step_histInv hst hs hh⟩

end Runs

/-- Settles O37: the launch state's registers are those of a reset, and its history is a reset and a startup. -/
theorem invariantsHoldAtLaunch : Obligations.InvariantsHoldAtLaunch :=
  ⟨fun cfg ha => ⟨devInv_init ha, histInv_init cfg⟩, devInv_init (by decide)⟩

/-- Settles O40: by induction on the run, from the launch state and the step lemmas. -/
theorem reachableStatesAreSound : Obligations.ReachableStatesAreSound :=
  fun _ _ h => h.sound

/-- Settles O42: of the effects, only a reset, a restore and a failed startup write one of these registers. -/
theorem identificationAndGeometryAreFixed : Obligations.IdentificationAndGeometryAreFixed := by
  intro s t i h
  have he := exec_effect h
  refine ⟨he.cfg_eq, fun hreset hrestore => ?_⟩
  cases he with
  | quiet hq =>
    obtain ⟨hr, -, hn, -⟩ := hq.sameDevice
    simp [hr, hn]
  | reset => exact absurd rfl hreset
  | restored => exact absurd rfl hrestore
  | startupFailed hi => exact absurd hi (by simp [hreset, hrestore])
  | _ => exact ⟨rfl, rfl, rfl, rfl, rfl, rfl, rfl, rfl, rfl, rfl⟩

/-! ## The writers of the flags -/

/-- The flags after a reset (10 R24 to R33). -/
theorem resetRegs_flags (cfg : Config) :
    (resetRegs cfg).start = false ∧ (resetRegs cfg).tpmSts = false ∧ (resetRegs cfg).tpmIdle = true ∧
      (resetRegs cfg).locAssigned = false ∧ (resetRegs cfg).granted = false ∧ (resetRegs cfg).beenSeized = false ∧
      (resetRegs cfg).tpmEstablished = true ∧ (resetRegs cfg).tpmRegValidSts = true :=
  ⟨rfl, rfl, rfl, rfl, rfl, rfl, rfl, rfl⟩

/-- Settles O41: an effect leaves a flag, or is among the writers that 10 R39 lists for the change. -/
theorem flagsHaveNoOtherWriters : Obligations.FlagsHaveNoOtherWriters := by
  intro s t i h
  cases exec_effect h with
  | quiet hq => simp +contextual [hq.regs_eq]
  | startupFailed hi => simp +contextual [hi, State.startupFailed, resetRegs_flags]
  | reset => simp [resetRegs_flags]
  | restored => simp [State.overwrite, resetRegs_flags]
  | granted | relinquished | readied | idled | stored => simp +contextual [State.wrote]
  | cancelled => simp +contextual [State.wrote, State.forwardCancel]
  | submitted => simp +contextual [State.wrote, State.submitCommand]
  | responded | saved => simp +contextual
  | doneOk | doneFail => simp +contextual [State.complete]

/-- Settles O50: by the fatal latch's line of 10 R39, a step that clears it ran the word of a reset or a restore. -/
theorem fatalLatchNeedsAReset : Obligations.FatalLatchNeedsAReset := by
  intro s t hs hst hno
  obtain ⟨-, rfl⟩ | ⟨o, rest, ho, ⟨c, -, rfl⟩ | ⟨i, hd, hi⟩⟩ := step_cases hst
  · exact hs
  · exact hs
  · obtain ⟨hreset, hrestore⟩ := hno o rest ho
    obtain ⟨-, -, -, hclear, -⟩ := flagsHaveNoOtherWriters _ _ _ hi
    by_contra hne
    obtain rfl | rfl := hclear hs (by simpa using hne)
    · exact hreset hd
    · exact hrestore hd

/-! ## The register words -/

/-- Locality State as a number (10 R24). -/
theorem locStateWord_toNat (r : Regs) :
    (locStateWord r).toNat =
      r.tpmEstablished.toNat + 2 * r.locAssigned.toNat + 4 * r.activeLocality.toNat + 128 * r.tpmRegValidSts.toNat := by
  simp only [locStateWord, append_toNat, BitVec.toNat_ofBool, BitVec.toNat_ofNat]
  omega

/-- Locality Status as a number (10 R27). -/
theorem locStsWord_toNat (r : Regs) : (locStsWord r).toNat = r.granted.toNat + 2 * r.beenSeized.toNat := by
  simp only [locStsWord, append_toNat, BitVec.toNat_ofBool, BitVec.toNat_ofNat]
  omega

/-- Control Status as a number (10 R31). -/
theorem ctrlStsWord_toNat (r : Regs) : (ctrlStsWord r).toNat = r.tpmSts.toNat + 2 * r.tpmIdle.toNat := by
  simp only [ctrlStsWord, append_toNat, BitVec.toNat_ofBool, BitVec.toNat_ofNat]
  omega

/-- Control Start as a number (10 R33). -/
theorem ctrlStartWord_toNat (r : Regs) : (ctrlStartWord r).toNat = r.start.toNat := by
  simp only [ctrlStartWord, append_toNat, BitVec.toNat_ofBool, BitVec.toNat_ofNat]
  omega

/-- An offset that names no stored register reads 0 (10 R26, R30, R32, R38). -/
theorem wordAt_eq_zero (r : Regs) {off : Offset}
    (h : off ∉ [offLocState, offLocSts, offIntfId, offIntfId2, offCtrlSts, offCtrlStart, offCmdSize, offCmdLaddr,
      offCmdHaddr, offRspSize, offRspAddrLow, offRspAddrHigh]) : wordAt r off = 0#32 := by
  simp only [List.mem_cons, List.not_mem_nil, or_false, not_or] at h
  simp [wordAt, h]

/-- Settles O10: the four words of flags as numbers, the stored words as they are, and every other offset reads 0. -/
theorem registerWordView : Obligations.RegisterWordView := by
  intro r
  refine ⟨locStateWord_toNat r, wordAt_eq_zero r (by decide), locStsWord_toNat r, rfl, rfl, wordAt_eq_zero r (by decide),
    ctrlStsWord_toNat r, wordAt_eq_zero r (by decide), ctrlStartWord_toNat r, rfl, rfl, rfl, rfl, rfl, rfl, ?_⟩
  intro off hoff
  fin_cases hoff <;> exact wordAt_eq_zero r (by decide)

end Sys2Proof.Safety

namespace Sys2Proof.Safety

open Sys2Proof.Machine

/-! ## Which transactions store -/

/-- Settles O43: of the effects, four write the buffer and five the request slot. -/
theorem onlyStoresChangeTheBuffer : Obligations.OnlyStoresChangeTheBuffer := by
  intro s t i h
  refine ⟨fun ⟨j, hj⟩ => ?_, fun hp => ?_⟩
  · cases exec_effect h with
    | quiet hq =>
      obtain ⟨-, hbuf, -, -⟩ := hq.sameDevice
      exact absurd (by rw [hbuf]) hj
    | stored => exact .inl ⟨_, _, _, _, rfl⟩
    | responded => exact .inr (.inl ⟨_, _, rfl⟩)
    | reset => exact .inr (.inr (.inl rfl))
    | restored => exact .inr (.inr (.inr rfl))
    | startupFailed hi => exact .inr (.inr hi)
    | _ => exact absurd rfl hj
  · cases exec_effect h with
    | quiet hq =>
      obtain ⟨-, -, -, hpending⟩ := hq.sameDevice
      exact absurd hpending hp
    | submitted => exact .inl ⟨_, _, rfl⟩
    | cancelled => exact .inr (.inl ⟨_, _, rfl⟩)
    | stored => exact .inr (.inr (.inl ⟨_, _, _, _, rfl⟩))
    | doneOk => exact .inr (.inr (.inr (.inl rfl)))
    | doneFail => exact .inr (.inr (.inr (.inr ⟨_, rfl⟩)))
    | _ => exact absurd rfl hp

/-! ## The words of the commands -/

section BusWords

variable (size : Size) (page : Page) (off : Offset) (v : Word)

/-- The word of a bus write has operation 1 (30 R102). -/
theorem packWrite_op : (packWrite size page off v).toNat / 2 ^ 28 % 16 = 1 := by
  have := (sizeCode size).isLt
  have := page.isLt
  have := off.isLt
  rw [packWrite, pack_toNat, BitVec.toNat_ofNat]
  omega

/-- The data of a bus write's word is the written value (30 R101). -/
theorem packWrite_data : (packWrite size page off v).toNat / 2 ^ 32 = v.toNat := by
  have := (sizeCode size).isLt
  have := page.isLt
  have := off.isLt
  rw [packWrite, pack_toNat, BitVec.toNat_ofNat]
  omega

end BusWords

/-- Settles O44: a bus transaction that is not quiet is one of the commands, with its token as the word's data, or a buffer
write. -/
theorem busSideEffectsAreExactlyTheCommands : Obligations.BusSideEffectsAreExactlyTheCommands := by
  intro s t i size page off hb hwf h hne
  cases exec_effect h with
  | quiet hq => exact absurd hq.sameDevice hne
  | granted => cases hb; exact ⟨packWrite_op .., .inr (.inl ⟨rfl, .inl (packWrite_data ..)⟩)⟩
  | relinquished => cases hb; exact ⟨packWrite_op .., .inr (.inl ⟨rfl, .inr (packWrite_data ..)⟩)⟩
  | readied => cases hb; exact ⟨packWrite_op .., .inr (.inr (.inl ⟨rfl, .inl (packWrite_data ..)⟩))⟩
  | idled => cases hb; exact ⟨packWrite_op .., .inr (.inr (.inl ⟨rfl, .inr (packWrite_data ..)⟩))⟩
  | cancelled => cases hb; exact ⟨packWrite_op .., .inr (.inr (.inr (.inl ⟨rfl, packWrite_data ..⟩)))⟩
  | submitted => cases hb; exact ⟨packWrite_op .., .inr (.inr (.inr (.inr ⟨rfl, packWrite_data ..⟩)))⟩
  | stored =>
    cases hb
    rw [wellFormed, Bool.and_eq_true, Bool.not_eq_true'] at hwf
    obtain ⟨hoff, -⟩ := hwf
    exact ⟨packWrite_op .., .inl (isRegOffset_false_iff.1 hoff)⟩
  | startupFailed hi => obtain rfl | rfl := hi <;> cases hb
  | responded | doneOk | doneFail | saved | reset | restored => cases hb

/-! ## The pages of the window -/

section Pages

variable {s : State} {size : Size} {p q : Page} {off : Offset}

/-- The access check asks of the page only that it is in the window (40 R130). -/
theorem accessCheck_page (hp : p.toNat < 5) (hq : q.toNat < 5) :
    accessCheck s size p off = accessCheck s size q off := by
  simp only [accessCheck, locPages, ge_iff_le, if_neg hp.not_ge, if_neg hq.not_ge]

/-- A bus read of one value through two pages of the window gives its agent one answer: held, a fault, or the value. -/
theorem read_reply_page (hp : p.toNat < 5) (hq : q.toNat < 5) (tp tq : TxWord) (v : Word) :
    ∃ t u, busTx tp size p off s (s.readBack size p off v) = .next t ∧
      busTx tq size q off s (s.readBack size q off v) = .next u ∧ t.reply = u.reply := by
  unfold busTx
  rw [accessCheck_page hp hq]
  cases accessCheck s size q off with
  | held | fault | ok => exact ⟨_, _, rfl, rfl, rfl⟩

end Pages

/-- Settles O45: neither the access check nor the value read depends on the page, for a register and for the buffer. -/
theorem everyPageReadsTheSame : Obligations.EveryPageReadsTheSame := by
  intro s size p q off hp hq
  obtain ⟨t, u, ht, hu, hreg⟩ := read_reply_page hp hq (encode (.rdReg size p off)) (encode (.rdReg size q off))
    (readLanes s.regs size off)
  obtain ⟨t', u', ht', hu', hbuf⟩ := read_reply_page hp hq (encode (.rdBuf size p off)) (encode (.rdBuf size q off))
    (readLE s.buf (bufIndex off) (sizeBytes size))
  exact ⟨t, u, t', u', ht, hu, hreg, ht', hu', hbuf⟩

/-! ## Accesses made twice -/

section Repeated

/-- A value stored twice at one place reads as stored once. -/
theorem readByte_writeLE_twice {m : List Host.Cell} (h : memWf m = true) (k n : Nat) (v : Word) (j : Nat) :
    readByte (writeLE (writeLE m k n v) k n v) j = readByte (writeLE m k n v) j := by
  by_cases hj : k ≤ j ∧ j < k + n
  · obtain ⟨d, rfl⟩ := Nat.exists_eq_add_of_le hj.1
    rw [readByte_writeLE_inside (memWf_writeLE h k n v) (by omega), readByte_writeLE_inside h (by omega)]
  · exact readByte_writeLE_outside _ (by omega) v

/-- A raced mark stays when made again. -/
theorem raceMark_twice (k : Nat) (p : Option Request) : raceMark k (raceMark k p) = raceMark k p := by
  cases p with
  | none => rfl
  | some r =>
    by_cases hk : k < r.inLen <;> simp [raceMark, hk]

variable {i : Instr} {s t u : State}

/-- An access that is ready after a bus transaction was ready before it, so the transaction had its rule's effect: a hold or
a fault changes nothing that the access check reads. -/
theorem eq_effect_of_busTx {w : TxWord} {size : Size} {page : Page} {off : Offset} {e : State}
    (h : busTx w size page off s e = .next t) (hr : BusReady t size page off) : t = e := by
  have hs : BusReady s size page off := by
    obtain ⟨-, rfl⟩ | ⟨-, c, rfl⟩ | ⟨hs, -⟩ := busTx_cases h
    · exact busReady_congr rfl rfl hr
    · exact busReady_congr rfl rfl hr
    · exact hs
  rw [busTx_ready hs] at h
  exact (Host.Outcome.next.inj h).symm

/-- A quiet step records no submission. -/
theorem Quiet.submit_not_mem (h : Quiet s u) (a b : Nat) (bytes : List Byte) :
    Event.submit a b bytes ∉ u.hist.drop s.hist.length := by
  cases h <;> simp [State.readBack, State.wrote]

/-- A transaction that records a submission is an INVOKE that found `start` clear (42 R175). -/
theorem Effect.start_of_submit {a b : Nat} {bytes : List Byte} (h : Effect s i u)
    (hm : Event.submit a b bytes ∈ u.hist.drop s.hist.length) : s.regs.start = false := by
  cases h with
  | quiet hq => exact absurd hm (hq.submit_not_mem a b bytes)
  | submitted _ hstart => exact hstart
  | granted | relinquished | readied | idled | stored => simp [State.wrote] at hm
  | cancelled => simp [State.wrote, State.forwardCancel] at hm
  | responded | saved | reset => simp at hm
  | doneOk | doneFail => simp [State.complete] at hm
  | restored => simp [State.overwrite] at hm
  | startupFailed => simp [State.startupFailed] at hm

/-- Where a ready INVOKE left `start` clear, its page is not the active locality: the INVOKE would have been accepted, and
would have set `start` (42 R175). So the same INVOKE made again is ignored. -/
theorem activeLoc_ne_of_invoke {size : Size} {page : Page} (h : exec (.wrStartInvoke size page) s = .next t)
    (hr : BusReady t size page offCtrlStart) (hstart : t.regs.start = false) : activeLoc t.regs ≠ some page := by
  have ht := eq_effect_of_busTx h hr
  split_ifs at ht with hs ha
  · rw [ht] at hstart
    exact absurd (hs.symm.trans hstart) (by decide)
  · rw [ht]
    exact ha
  · rw [ht] at hstart
    cases hstart

/-- A bus transaction made again leaves the registers, the size, the request slot and every byte of the buffer (20 R80). -/
theorem exec_twice (hs : DevInv s) (hi : agentOf i = .bus) (h1 : exec i s = .next t) (h2 : exec i t = .next u) :
    u.regs = t.regs ∧ u.n = t.n ∧ u.pending = t.pending ∧ ∀ j, readByte u.buf j = readByte t.buf j := by
  cases exec_effect h2 with
  | quiet hq =>
    obtain ⟨hregs, hbuf, hn, hpending⟩ := hq.sameDevice
    exact ⟨hregs, hn, hpending, fun j => by rw [hbuf]⟩
  | granted hr | relinquished hr | readied hr | idled hr =>
    obtain rfl := eq_effect_of_busTx h1 hr
    exact ⟨rfl, rfl, rfl, fun _ => rfl⟩
  | cancelled hr hstart =>
    have ht := eq_effect_of_busTx h1 hr
    split_ifs at ht with hsstart
    · subst ht
      exact ⟨rfl, rfl, by simp [State.forwardCancel, State.wrote, Function.comp_def], fun _ => rfl⟩
    · rw [ht] at hstart
      exact absurd hstart hsstart
  | submitted hr hstart hactive => exact absurd hactive (activeLoc_ne_of_invoke h1 hr hstart)
  | stored hr =>
    obtain rfl := eq_effect_of_busTx h1 hr
    exact ⟨rfl, rfl, raceMark_twice _ _, readByte_writeLE_twice hs.bufCanonical _ _ _⟩
  | startupFailed hhost => obtain rfl | rfl := hhost <;> cases hi
  | responded | doneOk | doneFail | saved | reset | restored => cases hi

end Repeated

/-- Settles O46: the second access changes no device field, and while a request is pending `start` is set, so that no
INVOKE is accepted. -/
theorem repeatedAccessesAreIdempotent : Obligations.RepeatedAccessesAreIdempotent := by
  intro s t u i hs hi _ h1 h2
  obtain ⟨hregs, hn, hpending, hbuf⟩ := exec_twice hs hi h1 h2
  refine ⟨hregs, hn, hpending, hbuf, fun a b bytes hp hm => ?_⟩
  have hclear : t.regs.start = false := (exec_effect h2).start_of_submit hm
  have hslot : t.regs.start = t.pending.isSome := ((exec_effect h1).devInv hs).startIffPending
  rw [hclear, Option.isSome_iff_ne_none.2 hp] at hslot
  cases hslot

end Sys2Proof.Safety

namespace Sys2Proof

open Sys2Proof.Machine Sys2Proof.Safety

/-! ## The fields of a word (30 R101) -/

section Fields

variable (t : TxWord)

theorem txOff_toNat : (txOff t).toNat = t.toNat % 2 ^ 12 := by
  simp only [txOff, BitVec.extractLsb'_toNat, Nat.shiftRight_zero]

theorem txPage_toNat : (txPage t).toNat = t.toNat / 2 ^ 12 % 2 ^ 3 := by
  simp only [txPage, BitVec.extractLsb'_toNat, Nat.shiftRight_eq_div_pow]

theorem txRsvd_toNat : (txRsvd t).toNat = t.toNat / 2 ^ 15 % 2 ^ 11 := by
  simp only [txRsvd, BitVec.extractLsb'_toNat, Nat.shiftRight_eq_div_pow]

theorem txSize_toNat : (txSize t).toNat = t.toNat / 2 ^ 26 % 2 ^ 2 := by
  simp only [txSize, BitVec.extractLsb'_toNat, Nat.shiftRight_eq_div_pow]

theorem txOp_toNat : (txOp t).toNat = t.toNat / 2 ^ 28 % 2 ^ 4 := by
  simp only [txOp, BitVec.extractLsb'_toNat, Nat.shiftRight_eq_div_pow]

theorem txData_toNat : (txData t).toNat = t.toNat / 2 ^ 32 := by
  have := t.isLt
  simp only [txData, BitVec.extractLsb'_toNat, Nat.shiftRight_eq_div_pow]
  omega

/-- The fields lie side by side and leave no bit out. -/
theorem toNat_eq_sum_fields :
    t.toNat = (txData t).toNat * 2 ^ 32 + (txOp t).toNat * 2 ^ 28 + (txSize t).toNat * 2 ^ 26
      + (txRsvd t).toNat * 2 ^ 15 + (txPage t).toNat * 2 ^ 12 + (txOff t).toNat := by
  rw [txData_toNat, txOp_toNat, txSize_toNat, txRsvd_toNat, txPage_toNat, txOff_toNat]
  omega

end Fields

/-- Settles O1: each field by its place, and the sum of the places. -/
theorem fieldsAreTheTablesBits : Obligations.FieldsAreTheTablesBits := fun t =>
  ⟨txOff_toNat t, txPage_toNat t, txRsvd_toNat t, txSize_toNat t, txOp_toNat t, txData_toNat t, toNat_eq_sum_fields t⟩

/-! ## What a word decodes to -/

/-- The words that decode, each with its instruction: by operation, a word of its fields and the row that they choose. -/
inductive Decodes : TxWord → Instr → Prop
  | read (size : Size) (page : Page) (off : Offset) : Decodes (packRead size page off) (decodeRead size page off)
  | write (size : Size) (page : Page) (off : Offset) (v : Word) : fitsSize size v = true →
      Decodes (packWrite size page off v) (decodeWrite size page off v)
  | beWr (index : Offset) (byte : Byte) : Decodes (encode (.beWr index byte)) (.beWr index byte)
  | done (st : Word) : Decodes (pack st 3#4 0#2 0#3 0#12) (decodeDone st)
  | hostReset : Decodes (encode .hostReset) .hostReset
  | hostSave : Decodes (encode .hostSave) .hostSave
  | hostRestore : Decodes (encode .hostRestore) .hostRestore

/-- The fields of a packed word are those it was packed from. -/
theorem txFields_pack (d : Word) (op : BitVec 4) (sz : BitVec 2) (pg : Page) (off : Offset) :
    txData (pack d op sz pg off) = d ∧ txOp (pack d op sz pg off) = op ∧ txSize (pack d op sz pg off) = sz ∧
      txRsvd (pack d op sz pg off) = 0#11 ∧ txPage (pack d op sz pg off) = pg ∧ txOff (pack d op sz pg off) = off :=
  ⟨txData_pack .., txOp_pack .., txSize_pack .., txRsvd_pack .., txPage_pack .., txOff_pack ..⟩

@[simp] theorem txFits_pack (op : BitVec 4) (size : Size) (page : Page) (off : Offset) (v : Word) :
    txFits (pack v op (sizeCode size) page off) = fitsSize size v := by
  rw [Bool.eq_iff_iff, txFits_iff (txSize_pack ..).symm, txData_pack, fitsSize, decide_eq_true_eq]

@[simp] theorem sizeCode_ne_three (size : Size) : sizeCode size ≠ 3#2 := by
  cases size <;> decide

/-- A word that passes the checks decodes by its row. -/
theorem decode_of_checkWord {t : TxWord} (h : checkWord t = none) : decode t = decodeRow t := by
  rw [decode, h]

/-- The word of an instruction passes the checks. -/
theorem Decodes.checkWord_eq {t : TxWord} {i : Instr} (h : Decodes t i) : checkWord t = none := by
  rw [checkWord_none_iff]
  cases h with
  | read size page off => simp [packRead, txFields_pack]
  | write size page off v hv => simp [packWrite, txFields_pack, hv]
  | beWr index byte =>
    have hb : byte.toNat < 0x100 := byte.isLt
    simp [encode, txFields_pack, Nat.lt_of_le_of_lt (Nat.mod_le ..) hb]
  | done st => simp [txFields_pack]
  | hostReset | hostSave | hostRestore => simp [encode, txFields_pack]

theorem extractLsb'_setWidth_byte (b : Byte) : (b.setWidth 32).extractLsb' 0 8 = b := by
  simp [← BitVec.setWidth_eq_extractLsb']

theorem setWidth_extractLsb'_of_lt {v : Word} (h : v.toNat < 0x100) : (v.extractLsb' 0 8).setWidth 32 = v := by
  apply BitVec.eq_of_toNat_eq
  rw [BitVec.toNat_setWidth, BitVec.extractLsb'_toNat, Nat.shiftRight_zero]
  omega

theorem Decodes.decode_eq {t : TxWord} {i : Instr} (h : Decodes t i) : decode t = .ok i := by
  rw [decode_of_checkWord h.checkWord_eq, decodeRow]
  cases h with
  | read size page off => simp [packRead, txFields_pack]
  | write size page off v hv => simp [packWrite, txFields_pack]
  | beWr index byte => simp [encode, txFields_pack, sizeOfCode, extractLsb'_setWidth_byte]
  | done st => simp [txFields_pack, sizeOfCode]
  | hostReset | hostSave | hostRestore => simp [encode, txFields_pack, sizeOfCode]

theorem exists_sizeCode_eq {c : BitVec 2} (h : c ≠ 3#2) : ∃ size, sizeCode size = c := by
  obtain h | h | h : c = 0#2 ∨ c = 1#2 ∨ c = 2#2 := by revert c; decide
  · exact ⟨.b1, h.symm⟩
  · exact ⟨.b2, h.symm⟩
  · exact ⟨.b4, h.symm⟩

/-- A word is known by its fields, its reserved field being 0. -/
theorem eq_pack {t : TxWord} {d : Word} {op : BitVec 4} {sz : BitVec 2} {pg : Page} {off : Offset}
    (hrsvd : txRsvd t = 0#11) (hop : (txOp t).toNat = op.toNat) (hd : txData t = d) (hsz : txSize t = sz)
    (hpg : txPage t = pg) (hoff : txOff t = off) : t = pack d op sz pg off := by
  rw [← pack_fields t hrsvd, BitVec.eq_of_toNat_eq hop, hd, hsz, hpg, hoff]

/-- A word that passes the checks is the word of an instruction: its operation says of which. -/
theorem exists_decodes {t : TxWord} (h : checkWord t = none) : ∃ i, Decodes t i := by
  obtain ⟨hop, hrsvd, hsize, hsize0, hread, hwrite, hbe, hdone, hhost⟩ := checkWord_none_iff.1 h
  interval_cases ho : (txOp t).toNat
  · obtain ⟨size, hs⟩ := exists_sizeCode_eq (hsize (by decide))
    rw [eq_pack (op := 0#4) hrsvd ho (hread rfl) hs.symm rfl rfl]
    exact ⟨_, .read ..⟩
  · obtain ⟨size, hs⟩ := exists_sizeCode_eq (hsize (by decide))
    have hv : fitsSize size (txData t) = true := decide_eq_true ((txFits_iff hs).1 (hwrite rfl))
    rw [eq_pack (op := 1#4) hrsvd ho rfl hs.symm rfl rfl]
    exact ⟨_, .write _ _ _ _ hv⟩
  · obtain ⟨hlt, hpage⟩ := hbe rfl
    rw [eq_pack (op := 2#4) hrsvd ho (setWidth_extractLsb'_of_lt hlt).symm (hsize0 (by decide)) hpage rfl]
    exact ⟨_, .beWr ..⟩
  · obtain ⟨hpage, hoff⟩ := hdone rfl
    rw [eq_pack (op := 3#4) hrsvd ho rfl (hsize0 (by decide)) hpage hoff]
    exact ⟨_, .done _⟩
  all_goals obtain ⟨hdata, hpage, hoff⟩ := hhost (by decide)
  · rw [eq_pack (op := 4#4) hrsvd ho hdata (hsize0 (by decide)) hpage hoff]
    exact ⟨_, .hostReset⟩
  · rw [eq_pack (op := 5#4) hrsvd ho hdata (hsize0 (by decide)) hpage hoff]
    exact ⟨_, .hostSave⟩
  · rw [eq_pack (op := 6#4) hrsvd ho hdata (hsize0 (by decide)) hpage hoff]
    exact ⟨_, .hostRestore⟩

/-- The decoder answers by the rows of `Decodes` and no others. -/
theorem decode_eq_ok_iff {t : TxWord} {i : Instr} : decode t = .ok i ↔ Decodes t i := by
  refine ⟨fun h => ?_, Decodes.decode_eq⟩
  obtain ⟨j, hj⟩ := exists_decodes (checkWord_of_decode h)
  cases h.symm.trans hj.decode_eq
  exact hj

/-! ## What a row decodes to is well-formed and has the row's word -/

section Rows

variable {size : Size} {page : Page} {off : Offset} {v : Word}

theorem wellFormed_decodeRead : wellFormed (decodeRead size page off) = true := by
  unfold decodeRead
  split <;> simp_all [wellFormed]

theorem encode_decodeRead : encode (decodeRead size page off) = packRead size page off := by
  unfold decodeRead
  split <;> rfl

/-- In each branch of `decodeWrite` the guards are what the row's instruction asks of its operands. -/
theorem wellFormed_decodeWrite (hv : fitsSize size v = true) : wellFormed (decodeWrite size page off v) = true := by
  unfold decodeWrite decodeLocCtrl decodeCtrlReq decodeCtrlCancel decodeCtrlStart
  split_ifs <;> simp [wellFormed, isCommandOffset, *]

/-- In each branch of `decodeWrite` the offset and the token that the row leaves out are those of the guards. -/
theorem encode_decodeWrite : encode (decodeWrite size page off v) = packWrite size page off v := by
  unfold decodeWrite decodeLocCtrl decodeCtrlReq decodeCtrlCancel decodeCtrlStart
  split_ifs <;> simp [encode, *]

theorem wellFormed_decodeDone {st : Word} : wellFormed (decodeDone st) = true := by
  unfold decodeDone
  split <;> simp_all [wellFormed]

theorem encode_decodeDone {st : Word} : encode (decodeDone st) = pack st 3#4 0#2 0#3 0#12 := by
  unfold decodeDone
  split <;> simp [encode, *]

end Rows

theorem Decodes.wellFormed {t : TxWord} {i : Instr} (h : Decodes t i) : wellFormed i = true := by
  cases h with
  | read => exact wellFormed_decodeRead
  | write _ _ _ _ hv => exact wellFormed_decodeWrite hv
  | done => exact wellFormed_decodeDone
  | beWr | hostReset | hostSave | hostRestore => rfl

theorem Decodes.encode_eq {t : TxWord} {i : Instr} (h : Decodes t i) : encode i = t := by
  cases h with
  | read => exact encode_decodeRead
  | write => exact encode_decodeWrite
  | done => exact encode_decodeDone
  | beWr | hostReset | hostSave | hostRestore => rfl

/-- Settles O5: what the decoder answers is in `Decodes`, and there each row's instruction is well-formed and has the row's word. -/
theorem encodeDecodeRoundTrip : Obligations.EncodeDecodeRoundTrip := fun _ _ h =>
  have hd := decode_eq_ok_iff.1 h
  ⟨hd.wellFormed, hd.encode_eq⟩

/-! ## Decoding the word of an instruction -/

section WellFormed

variable {size : Size} {page : Page} {off : Offset} {v : Word} {i : Instr}

/-- A token fits every access. -/
theorem fitsSize_of_lt (size : Size) {v : Word} (h : v.toNat < 2 ^ 8) : fitsSize size v = true :=
  decide_eq_true (h.trans_le (Nat.pow_le_pow_right (by decide) (by cases size <;> decide)))

theorem isCommandOffset_iff :
    isCommandOffset off = true ↔ off = offLocCtrl ∨ off = offCtrlReq ∨ off = offCtrlCancel ∨ off = offCtrlStart := by
  simp [isCommandOffset, or_assoc]

/-- The command offsets are register offsets. -/
theorem isCommandOffset_eq_false (h : isRegOffset off = false) : isCommandOffset off = false := by
  rw [← Bool.not_eq_true, isCommandOffset_iff]
  rintro (rfl | rfl | rfl | rfl) <;> cases h

/-- Rows 15 and 16: a write elsewhere than at a command offset. -/
theorem decodeWrite_of_not_command (h : isCommandOffset off = false) :
    decodeWrite size page off v =
      if isRegOffset off then .wrRegNoEffect size page off v else .wrBuf size page off v := by
  rw [← Bool.not_eq_true, isCommandOffset_iff, not_or, not_or, not_or] at h
  obtain ⟨h1, h2, h3, h4⟩ := h
  rw [decodeWrite, if_neg h1, if_neg h2, if_neg h3, if_neg h4]

theorem decodes_packRead (hi : decodeRead size page off = i) : Decodes (packRead size page off) i :=
  hi ▸ .read size page off

theorem decodes_packWrite (hv : fitsSize size v = true) (hi : decodeWrite size page off v = i) :
    Decodes (packWrite size page off v) i :=
  hi ▸ .write size page off v hv

theorem decodes_done {st : Word} (hi : decodeDone st = i) : Decodes (pack st 3#4 0#2 0#3 0#12) i :=
  hi ▸ .done st

theorem decodes_encode (h : wellFormed i = true) : Decodes (encode i) i := by
  cases i with
  | rdReg => exact decodes_packRead (if_pos h)
  | rdBuf => exact decodes_packRead (if_neg (by simpa [wellFormed] using h))
  | wrLocRequest | wrLocRelinquish | wrLocSeize | wrLocResetEst | wrReqCmdReady | wrReqGoIdle | wrCancelCancel
  | wrStartInvoke => exact decodes_packWrite (fitsSize_of_lt _ (by decide)) rfl
  | wrLocOther size page v =>
    simp only [wellFormed, Bool.and_eq_true, bne_iff_ne] at h
    obtain ⟨⟨⟨⟨hv, h1⟩, h2⟩, h3⟩, h4⟩ := h
    have hrow : decodeLocCtrl size page v = .wrLocOther size page v := by simp [decodeLocCtrl, *]
    exact decodes_packWrite hv hrow
  | wrReqOther size page v =>
    simp only [wellFormed, Bool.and_eq_true, bne_iff_ne] at h
    obtain ⟨⟨hv, h1⟩, h2⟩ := h
    have hrow : decodeCtrlReq size page v = .wrReqOther size page v := by simp [decodeCtrlReq, *]
    exact decodes_packWrite hv hrow
  | wrCancelOther | wrStartOther =>
    simp only [wellFormed, Bool.and_eq_true, bne_iff_ne] at h
    obtain ⟨hv, h1⟩ := h
    exact decodes_packWrite hv (if_neg h1)
  | wrRegNoEffect =>
    simp only [wellFormed, Bool.and_eq_true, Bool.not_eq_true'] at h
    obtain ⟨⟨hreg, hcmd⟩, hv⟩ := h
    exact decodes_packWrite hv (by rw [decodeWrite_of_not_command hcmd, if_pos hreg])
  | wrBuf =>
    simp only [wellFormed, Bool.and_eq_true, Bool.not_eq_true'] at h
    obtain ⟨hbuf, hv⟩ := h
    exact decodes_packWrite hv (by simp [decodeWrite_of_not_command (isCommandOffset_eq_false hbuf), hbuf])
  | beWr => exact .beWr ..
  | beDoneOk => exact .done 0#32
  | beDoneFail => exact decodes_done (if_neg (by simpa [wellFormed] using h))
  | hostReset => exact .hostReset
  | hostSave => exact .hostSave
  | hostRestore => exact .hostRestore

end WellFormed

/-- Settles O4: the word of a well-formed instruction is in `Decodes` with it. -/
theorem decodeEncodeRoundTrip : Obligations.DecodeEncodeRoundTrip := fun _ h => (decodes_encode h).decode_eq

/-! ## The checks in their order (30 R104) -/

section Checks

variable {t : TxWord}

/-- What the checks answer: the first, in the order of 30 R104, that the word fails; none when every check holds. -/
def IsFirstFailure (t : TxWord) : Option WfCheck → Prop
  | some c => ¬ wfHolds t c ∧ ∀ d, wfRank d < wfRank c → wfHolds t d
  | none => ∀ c, wfHolds t c

theorem wfRank_injective : Function.Injective wfRank := by
  intro c d h
  cases c <;> cases d <;> cases h <;> rfl

/-- A word has one answer. -/
theorem IsFirstFailure.unique {r r' : Option WfCheck} (h : IsFirstFailure t r) (h' : IsFirstFailure t r') : r = r' := by
  match r, r', h, h' with
  | none, none, _, _ => rfl
  | none, some d, h, ⟨hd, _⟩ => exact absurd (h d) hd
  | some c, none, ⟨hc, _⟩, h' => exact absurd (h' c) hc
  | some c, some d, ⟨hc, hbefore⟩, ⟨hd, hbefore'⟩ =>
    obtain hlt | heq | hlt := Nat.lt_trichotomy (wfRank c) (wfRank d)
    · exact absurd (hbefore' c hlt) hc
    · rw [wfRank_injective heq]
    · exact absurd (hbefore d hlt) hd

/-- One check of the chain: it names itself when it fails, and the checks after it may take that it holds. -/
theorem isFirstFailure_ite (c : WfCheck) {p : Prop} [Decidable p] {rest : Option WfCheck}
    (hbefore : ∀ d, wfRank d < wfRank c → wfHolds t d) (hp : p ↔ ¬ wfHolds t c)
    (hrest : (∀ d, wfRank d < wfRank c + 1 → wfHolds t d) → IsFirstFailure t rest) :
    IsFirstFailure t (if p then some c else rest) := by
  split_ifs with h
  · exact ⟨hp.1 h, hbefore⟩
  · refine hrest fun d hd => ?_
    obtain hlt | heq := Nat.lt_succ_iff_lt_or_eq.1 hd
    · exact hbefore d hlt
    · rw [wfRank_injective heq]
      exact not_not.1 fun hc => h (hp.2 hc)

/-- The size check is made for bus words and for the others apart. -/
theorem size_check_iff :
    ((txOp t).toNat ≤ 1 ∧ txSize t = 3#2 ∨ (txOp t).toNat > 1 ∧ txSize t ≠ 0#2) ↔ ¬ wfHolds t .size := by
  have := (txSize t).isLt
  simp only [wfHolds, ← BitVec.toNat_inj, BitVec.toNat_ofNat, ne_eq]
  omega

/-- `checkWord` makes the checks in their order. -/
theorem isFirstFailure_checkWord (t : TxWord) : IsFirstFailure t (checkWord t) := by
  unfold checkWord
  simp only [← ite_or]
  refine isFirstFailure_ite .op (fun d hd => absurd hd (Nat.not_lt_zero _)) Nat.not_le.symm fun h => ?_
  have hop : (txOp t).toNat ≤ 6 := h .op (by decide)
  refine isFirstFailure_ite .rsvd h Iff.rfl fun h => ?_
  refine isFirstFailure_ite .size h size_check_iff fun h => ?_
  refine isFirstFailure_ite .rdata h Classical.not_imp.symm fun h => ?_
  refine isFirstFailure_ite .wdata h (by simp [wfHolds, txFits]) fun h => ?_
  refine isFirstFailure_ite .bedata h Classical.not_imp.symm fun h => ?_
  refine isFirstFailure_ite .done h Classical.not_imp.symm fun h => ?_
  refine isFirstFailure_ite .host h (by simp [wfHolds, hop]) fun h => ?_
  exact fun c => h c (by cases c <;> decide)

theorem checkWord_eq_iff {r : Option WfCheck} : checkWord t = r ↔ IsFirstFailure t r :=
  ⟨fun h => h ▸ isFirstFailure_checkWord t, (isFirstFailure_checkWord t).unique⟩

theorem exists_decode_eq_ok_iff : (∃ i, decode t = .ok i) ↔ checkWord t = none := by
  refine ⟨fun ⟨_, h⟩ => checkWord_of_decode h, fun h => ?_⟩
  obtain ⟨i, hi⟩ := exists_decodes h
  exact ⟨i, hi.decode_eq⟩

theorem decode_eq_error_iff {c : WfCheck} : decode t = .error c ↔ checkWord t = some c := by
  cases hc : checkWord t with
  | none =>
    obtain ⟨i, hi⟩ := exists_decode_eq_ok_iff.2 hc
    simp [hi]
  | some d => simp [decode, hc]

end Checks

/-- Settles O2: the decoder fails only by `checkWord`, which answers the first failing check. -/
theorem wordsAreCheckedInOrder : Obligations.WordsAreCheckedInOrder := fun _ =>
  ⟨exists_decode_eq_ok_iff.trans checkWord_eq_iff, fun _ => decode_eq_error_iff.trans checkWord_eq_iff⟩

/-! ## The opcode table (30 R108) -/

/-- Words with the same fields are the same word. -/
theorem eq_iff_fields {t u : TxWord} :
    t = u ↔ txData t = txData u ∧ txOp t = txOp u ∧ txSize t = txSize u ∧ txRsvd t = txRsvd u ∧ txPage t = txPage u ∧
      txOff t = txOff u := by
  refine ⟨fun h => h ▸ ⟨rfl, rfl, rfl, rfl, rfl, rfl⟩, fun ⟨hd, ho, hs, hr, hp, hoff⟩ => ?_⟩
  apply BitVec.eq_of_toNat_eq
  rw [toNat_eq_sum_fields t, toNat_eq_sum_fields u, hd, ho, hs, hr, hp, hoff]

/-- A packed word matches a row when its fields match the bits of the row's mask and match value there. -/
theorem pack_and_eq_iff {d : Word} {op : BitVec 4} {sz : BitVec 2} {pg : Page} {off : Offset} {m w : TxWord} :
    pack d op sz pg off &&& m = w ↔
      d &&& m.extractLsb' 32 32 = w.extractLsb' 32 32 ∧ op &&& m.extractLsb' 28 4 = w.extractLsb' 28 4 ∧
        sz &&& m.extractLsb' 26 2 = w.extractLsb' 26 2 ∧ 0#11 = w.extractLsb' 15 11 ∧
        pg &&& m.extractLsb' 12 3 = w.extractLsb' 12 3 ∧ off &&& m.extractLsb' 0 12 = w.extractLsb' 0 12 := by
  obtain ⟨hd, hop, hsz, hr, hpg, hoff⟩ := txFields_pack d op sz pg off
  have hzero : 0#11 = 0#11 &&& m.extractLsb' 15 11 := BitVec.zero_and.symm
  rw [eq_iff_fields, hzero]
  simp only [txData, txOp, txSize, txRsvd, txPage, txOff, BitVec.extractLsb'_and] at hd hop hsz hr hpg hoff ⊢
  rw [hd, hop, hsz, hr, hpg, hoff]

/-- The offset mask of the register rows leaves nothing exactly of the register offsets: it is the upper five bits. -/
theorem and_regMask_eq_zero_iff {off : Offset} : off &&& 0xF80#12 = 0#12 ↔ isRegOffset off = true := by
  have hsplit : off.extractLsb' 7 5 ++ off.extractLsb' 0 7 = off := BitVec.extractLsb'_append_extractLsb' (w := 5)
  calc off &&& 0xF80#12 = 0#12
      ↔ (off.extractLsb' 7 5 ++ off.extractLsb' 0 7) &&& (0x1F#5 ++ 0#7) = 0#5 ++ 0#7 := by rw [hsplit]; exact Iff.rfl
    _ ↔ off.extractLsb' 7 5 &&& 0x1F#5 = 0#5 ∧ off.extractLsb' 0 7 &&& 0#7 = 0#7 := by
      rw [append_and_append, append_inj_iff]
    _ ↔ off.extractLsb' 7 5 = 0#5 := by
      rw [and_iff_left BitVec.and_zero, show off.extractLsb' 7 5 &&& 0x1F#5 = _ from BitVec.and_allOnes]
    _ ↔ isRegOffset off = true := by
      have := off.isLt
      rw [← BitVec.toNat_inj, BitVec.extractLsb'_toNat, Nat.shiftRight_eq_div_pow, BitVec.toNat_ofNat, isRegOffset,
        decide_eq_true_eq, bufOff]
      omega

/-- A byte has no bit above its eight. -/
theorem byte_and_eq_zero (byte : Byte) : byte.setWidth 32 &&& 0xFFFFFF00#32 = 0#32 := by
  rw [BitVec.setWidth_eq_append (by decide)]
  exact (append_and_append 0#24 0xFFFFFF#24 byte 0#8).trans (by simp)

section FirstRow

variable (size : Size) (page : Page) (off : Offset) (v : Word)

theorem firstRow_packRead : firstRow (packRead size page off) = some (rowOf (decodeRead size page off)) := by
  unfold decodeRead
  split_ifs with h <;>
    simp [firstRow, opcodeTable, List.findIdx?_cons, packRead, pack_and_eq_iff, and_regMask_eq_zero_iff, h, rowOf]

/-- The rows of a bus write as the table lists them, by value and offset. -/
def writeRow (off : Offset) (v : Word) : Nat :=
  if v = 0x1#32 ∧ off = 0x008#12 then 2
  else if v = 0x2#32 ∧ off = 0x008#12 then 3
  else if v = 0x4#32 ∧ off = 0x008#12 then 4
  else if v = 0x8#32 ∧ off = 0x008#12 then 5
  else if off = 0x008#12 then 6
  else if v = 0x1#32 ∧ off = 0x040#12 then 7
  else if v = 0x2#32 ∧ off = 0x040#12 then 8
  else if off = 0x040#12 then 9
  else if v = 0x1#32 ∧ off = 0x048#12 then 10
  else if off = 0x048#12 then 11
  else if v = 0x1#32 ∧ off = 0x04C#12 then 12
  else if off = 0x04C#12 then 13
  else if off &&& 0xF80#12 = 0#12 then 14
  else 15

theorem firstRow_packWrite : firstRow (packWrite size page off v) = some (writeRow off v) := by
  have hv : v &&& 0xFFFFFFFF#32 = v := BitVec.and_allOnes
  have hoff : off &&& 0xFFF#12 = off := BitVec.and_allOnes
  simp only [writeRow, apply_ite some]
  simp [firstRow, opcodeTable, List.findIdx?_cons, packWrite, pack_and_eq_iff, hv, hoff, apply_ite (Option.map _)]

/-- The decoder asks for the offset first and then for the value, with the table's result. -/
theorem rowOf_decodeWrite : rowOf (decodeWrite size page off v) = writeRow off v := by
  unfold decodeWrite decodeLocCtrl decodeCtrlReq decodeCtrlCancel decodeCtrlStart offLocCtrl offCtrlReq offCtrlCancel
    offCtrlStart tokRequestAccess tokRelinquish tokSeize tokResetEst tokCmdReady tokGoIdle tokCancel tokInvoke
  split_ifs <;> simp [writeRow, rowOf, and_regMask_eq_zero_iff, *]

theorem firstRow_beWr (index : Offset) (byte : Byte) :
    firstRow (encode (.beWr index byte)) = some (rowOf (.beWr index byte)) := by
  simp [firstRow, opcodeTable, List.findIdx?_cons, encode, pack_and_eq_iff, byte_and_eq_zero, rowOf]

theorem firstRow_done (st : Word) : firstRow (pack st 3#4 0#2 0#3 0#12) = some (rowOf (decodeDone st)) := by
  have hst : st &&& 0xFFFFFFFF#32 = st := BitVec.and_allOnes
  unfold decodeDone
  split_ifs with h <;>
    simp [firstRow, opcodeTable, List.findIdx?_cons, pack_and_eq_iff, hst, h, rowOf]

end FirstRow

theorem Decodes.firstRow_eq {t : TxWord} {i : Instr} (h : Decodes t i) : firstRow t = some (rowOf i) := by
  cases h with
  | read => exact firstRow_packRead ..
  | write => rw [firstRow_packWrite, rowOf_decodeWrite]
  | beWr => exact firstRow_beWr ..
  | done => exact firstRow_done ..
  | hostReset | hostSave | hostRestore => rfl

/-- Settles O3: for each kind of word that decodes, the table is read on its fields. -/
theorem decodeFollowsOpcodeTable : Obligations.DecodeFollowsOpcodeTable := fun _ _ h =>
  (decode_eq_ok_iff.1 h).firstRow_eq

/-- Settles O6: each word is the word of a well-formed instruction, but for the last, whose operation is none. -/
theorem exampleWordsDecode : Obligations.ExampleWordsDecode :=
  ⟨decodeEncodeRoundTrip (.rdReg .b4 0#3 0x000#12) rfl, decodeEncodeRoundTrip (.rdBuf .b2 0#3 0x080#12) rfl,
    decodeEncodeRoundTrip (.wrLocRequest .b4 0#3) rfl, decodeEncodeRoundTrip (.wrStartInvoke .b1 0#3) rfl,
    decodeEncodeRoundTrip (.wrRegNoEffect .b1 0#3 0x04D#12 0x1#32) rfl,
    decodeEncodeRoundTrip (.wrStartOther .b4 0#3 0x3#32) rfl, decodeEncodeRoundTrip (.beWr 0x000#12 0x80#8) rfl,
    decodeEncodeRoundTrip (.beDoneFail 0x8000#32) rfl, decodeEncodeRoundTrip .hostRestore rfl, rfl⟩

end Sys2Proof

namespace Sys2Proof.Safety

open Sys2Proof.Machine

/-! ## The register file (40_register_file.md) -/

section BusAccess

variable {i : Instr} {size : Size} {page : Page} {off : Offset} {v : Word} {t : TxWord}

/-- A bus instruction runs in the shell `busTx`, which answers each failing line of 40 R130 in its order. -/
theorem accessChecked_of_busAccess (h : busAccess i = some (size, page, off)) :
    AccessChecked i size page off (encode i) := by
  intro s
  obtain ⟨effect, he⟩ := exists_exec_eq_busTx h s
  rw [he]
  refine ⟨fun ht => ?_, fun ht hp => ?_, fun ht _ ha => ?_, fun ht hp ha hb ho => ?_⟩
  · exact busTx_terminated ht
  · exact busTx_access ht (.inl hp)
  · exact busTx_access ht (.inr ha)
  · exact busTx_overrun ht hp ha hb ho

/-- The packed word of a bus access is the number of 30 R112. -/
theorem pack_eq_busWord (op : BitVec 4) (size : Size) (page : Page) (off : Offset) (v : Word) :
    pack v op (sizeCode size) page off = busWord op.toNat size page off v := by
  have hsize : sizeLog size = (sizeCode size).toNat := by cases size <;> rfl
  apply BitVec.eq_of_toNat_eq
  rw [busWord, hsize, ← pack_toNat, BitVec.toNat_ofNat, Nat.mod_eq_of_lt (BitVec.isLt _)]

/-- A well-formed bus instruction and its word stand for each other, and a fault of its access records that word. -/
theorem encodedAs_and_accessChecked (hwf : wellFormed i = true) (ha : busAccess i = some (size, page, off))
    (ht : encode i = t) : EncodedAs i t ∧ AccessChecked i size page off t := by
  subst ht
  exact ⟨⟨rfl, decodeEncodeRoundTrip i hwf⟩, accessChecked_of_busAccess ha⟩

/-- A well-formed bus write whose arm is `ignoredWrite` has no effect (40 R134). -/
theorem noEffectWrite_of_ignoredWrite (hwf : wellFormed i = true) (ha : busAccess i = some (size, page, off))
    (ht : encode i = packWrite size page off v)
    (hx : ∀ s, exec i s = ignoredWrite (encode i) size page off v s) : NoEffectWrite i size page off v := by
  obtain ⟨henc, hacc⟩ := encodedAs_and_accessChecked hwf ha (ht.trans (pack_eq_busWord 1#4 size page off v))
  exact ⟨henc, hacc, fun s hr => (hx s).trans (busTx_ready hr)⟩

variable {s u : State}

/-- A ready register read answers the lanes of its word (40 R131). -/
theorem exec_rdReg_ready (hr : BusReady s size page off) :
    exec (.rdReg size page off) s = .next (s.readBack size page off (readLanes s.regs size off)) :=
  busTx_ready hr

/-- A ready buffer read answers the bytes at its index (40 R132). -/
theorem exec_rdBuf_ready (hr : BusReady s size page off) :
    exec (.rdBuf size page off) s =
      .next (s.readBack size page off (readLE s.buf (bufIndex off) (sizeBytes size))) :=
  busTx_ready hr

/-- A ready buffer write stores the value's bytes and marks the request that they hit (40 R133). -/
theorem exec_wrBuf_ready (hr : BusReady s size page off) :
    exec (.wrBuf size page off v) s =
      .next (((s.setBuf (writeLE s.buf (bufIndex off) (sizeBytes size) v)).setPending
        (raceMark (bufIndex off) s.pending)).wrote size page off v) :=
  busTx_ready hr

/-- Two transactions, the second on what the first leaves. -/
theorem execAll_pair {j : Instr} {m : State} (hi : exec i s = .next m) (hj : exec j m = .next u) :
    execAll [i, j] s = .next u := by
  simp only [execAll, hi, hj]

end BusAccess

section Values

/-- The lanes of a register read start at byte `off mod 4` of the word (40 R131). -/
theorem readLanes_eq_ofNat (r : Regs) (size : Size) (off : Offset) :
    readLanes r size off = BitVec.ofNat 32
      ((wordAt r (off &&& ~~~3#12)).toNat / 2 ^ (8 * (off.toNat % 4)) % 2 ^ (8 * sizeBytes size)) := by
  have hlane : (off &&& 3#12).toNat = off.toNat % 4 := Nat.and_two_pow_sub_one_eq_mod off.toNat 2
  rw [← hlane, ← readLanes_eq, BitVec.ofNat_toNat, BitVec.setWidth_eq]

/-- The bytes of a value that fits are read back where they were stored (40 R132, R133). -/
theorem readLE_writeLE {m : List Host.Cell} (h : memWf m = true) (k n : Nat) {v : Word} (hv : v.toNat < 2 ^ (8 * n)) :
    readLE (writeLE m k n v) k n = v := by
  have hbytes : (List.range n).map (fun j => (readByte (writeLE m k n v) (k + j)).toNat * 2 ^ (8 * j))
      = (List.range n).map (fun j => v.toNat / 2 ^ (8 * j) % 2 ^ 8 * 2 ^ (8 * j)) :=
    List.map_congr_left fun j hj => by
      rw [readByte_writeLE_inside h (List.mem_range.1 hj), byteLane_toNat]
  rw [readLE_eq_sum, hbytes, lanes_sum, Nat.mod_eq_of_lt hv, BitVec.ofNat_toNat, BitVec.setWidth_eq]

/-- The race mark as an update of the pending request (20 R86). -/
theorem raceMark_eq_map (k : Nat) (p : Option Request) :
    raceMark k p = p.map (fun r => { r with inRaced := r.inRaced || decide (k < r.inLen) }) := by
  cases p with
  | none => rfl
  | some r => by_cases hk : k < r.inLen <;> simp [raceMark, hk]

end Values

/-- Settles O12: every bus instruction runs in the one shell that makes the access check. -/
theorem everyBusAccessIsChecked : Obligations.EveryBusAccessIsChecked := fun _ _ _ _ =>
  accessChecked_of_busAccess

/-- Settles O13: the lanes that `readLanes` gives are those of 40 R131. -/
theorem readRegisterReturnsLanes : Obligations.ReadRegisterReturnsLanes := by
  intro size page off hoff
  obtain ⟨henc, hacc⟩ := encodedAs_and_accessChecked (i := .rdReg size page off) (isRegOffset_iff.2 hoff) rfl
    (pack_eq_busWord 0#4 size page off 0#32)
  refine ⟨henc, hacc, fun s hr => ?_⟩
  rw [← readLanes_eq_ofNat]
  exact exec_rdReg_ready hr

/-- Settles O14: a buffer read is the sum of its bytes. -/
theorem readBufferReturnsBytes : Obligations.ReadBufferReturnsBytes := by
  intro size page off hoff
  have hwf : wellFormed (.rdBuf size page off) = true := by simp [wellFormed, isRegOffset_false_iff.2 hoff]
  obtain ⟨henc, hacc⟩ := encodedAs_and_accessChecked hwf rfl (pack_eq_busWord 0#4 size page off 0#32)
  refine ⟨henc, hacc, fun s hr => ?_⟩
  rw [← readLE_eq_sum]
  exact exec_rdBuf_ready hr

/-- Settles O15: the new buffer is the one `writeLE` gives, known by its bytes inside and outside the access. -/
theorem writeBufferStoresBytes : Obligations.WriteBufferStoresBytes := by
  intro size page off v hoff hv
  have hwf : wellFormed (.wrBuf size page off v) = true := by
    simp [wellFormed, isRegOffset_false_iff.2 hoff, fitsSize_iff.2 hv]
  obtain ⟨henc, hacc⟩ := encodedAs_and_accessChecked hwf rfl (pack_eq_busWord 1#4 size page off v)
  refine ⟨henc, hacc, fun s hr hm => ?_⟩
  refine ⟨writeLE s.buf (bufIndex off) (sizeBytes size) v, ?_, fun k hk => ?_, fun j hj => ?_⟩
  · rw [← raceMark_eq_map]
    exact exec_wrBuf_ready hr
  · exact (congrArg BitVec.toNat (readByte_writeLE_inside hm hk v)).trans (byteLane_toNat v k)
  · exact readByte_writeLE_outside s.buf hj v

/-- Settles O16: the write leaves the second access ready, and the read gives what `writeLE` stored. -/
theorem bufferWriteReadsBack : Obligations.BufferWriteReadsBack := by
  intro s size p q off v _ hv hp hq hm
  exact ⟨_, execAll_pair (exec_wrBuf_ready hp) (exec_rdBuf_ready (busReady_congr (s := s) rfl rfl hq)),
    congrArg (Reply.data size) (readLE_writeLE hm (bufIndex off) (sizeBytes size) hv)⟩

/-- Settles O17: the arm of each of the seven is `ignoredWrite`; the exclusions make the instruction well-formed. -/
theorem writesWithoutEffect : Obligations.WritesWithoutEffect := by
  intro size page
  refine ⟨?_, ?_, fun v hv => ?_⟩
  · exact noEffectWrite_of_ignoredWrite rfl rfl rfl fun _ => rfl
  · exact noEffectWrite_of_ignoredWrite rfl rfl rfl fun _ => rfl
  have hfit : fitsSize size v = true := fitsSize_iff.2 hv
  refine ⟨fun h1 h2 h4 h8 => ?_, fun h1 h2 => ?_, fun h1 => ?_, fun h1 => ?_,
    fun off hoff hloc hreq hcancel hstart => ?_⟩
  · have hwf : wellFormed (.wrLocOther size page v) = true := by
      simp [wellFormed, tokRequestAccess, tokRelinquish, tokSeize, tokResetEst, *]
    exact noEffectWrite_of_ignoredWrite hwf rfl rfl fun _ => rfl
  · have hwf : wellFormed (.wrReqOther size page v) = true := by
      simp [wellFormed, tokCmdReady, tokGoIdle, *]
    exact noEffectWrite_of_ignoredWrite hwf rfl rfl fun _ => rfl
  · have hwf : wellFormed (.wrCancelOther size page v) = true := by simp [wellFormed, hfit, tokCancel, h1]
    exact noEffectWrite_of_ignoredWrite hwf rfl rfl fun _ => rfl
  · have hwf : wellFormed (.wrStartOther size page v) = true := by simp [wellFormed, hfit, tokInvoke, h1]
    exact noEffectWrite_of_ignoredWrite hwf rfl rfl fun _ => rfl
  · have hcmd : isCommandOffset off = false := isCommandOffset_false_iff.2 ⟨hloc, hreq, hcancel, hstart⟩
    have hwf : wellFormed (.wrRegNoEffect size page off v) = true := by
      simp [wellFormed, isRegOffset_iff.2 hoff, hcmd, hfit]
    exact noEffectWrite_of_ignoredWrite hwf rfl rfl fun _ => rfl

end Sys2Proof.Safety


namespace Sys2Proof.Safety

open Sys2Proof.Machine

/-! ## The locality arbiter (41_locality_arbiter.md) -/

/-- A well-formed bus write that runs in the shell `busTx` has its encoding, the access check, and where the access is ready
exactly its effect (40 R130). -/
theorem busWrite_encoded_checked_ready {i : Instr} {size : Size} {page : Page} {off : Offset} {v : Word}
    {effect : State → State} (hwf : wellFormed i = true) (ha : busAccess i = some (size, page, off))
    (ht : encode i = packWrite size page off v)
    (hx : ∀ s, exec i s = busTx (encode i) size page off s (effect s)) :
    EncodedAs i (busWord 1 size page off v) ∧ AccessChecked i size page off (busWord 1 size page off v) ∧
      ∀ s : State, BusReady s size page off → exec i s = .next (effect s) := by
  obtain ⟨henc, hacc⟩ := encodedAs_and_accessChecked hwf ha (ht.trans (pack_eq_busWord 1#4 size page off v))
  exact ⟨henc, hacc, fun s hr => (hx s).trans (busTx_ready hr)⟩

/-- Settles O18: the arm runs in `busTx`, and its effect on a ready access is the three flags and the event. -/
theorem requestAccessGrants : Obligations.RequestAccessGrants := fun _ _ =>
  busWrite_encoded_checked_ready rfl rfl rfl fun _ => rfl

/-- Settles O19: the arm runs in `busTx`, and its effect on a ready access is the two flags and the event. -/
theorem relinquishDeactivates : Obligations.RelinquishDeactivates := fun _ _ =>
  busWrite_encoded_checked_ready rfl rfl rfl fun _ => rfl

end Sys2Proof.Safety

namespace Sys2Proof.Safety

open Sys2Proof.Machine

/-! ## The command dispatcher (42_command_dispatcher.md) -/

/-- Settles O20: the arm runs in `busTx`, and its effect on a ready access is the cleared flag and the event. -/
theorem cmdReadyClearsIdle : Obligations.CmdReadyClearsIdle := fun _ _ =>
  busWrite_encoded_checked_ready rfl rfl rfl fun _ => rfl

/-- Settles O21: the arm runs in `busTx`, and its effect on a ready access is the set flag and the event. -/
theorem goIdleSetsIdle : Obligations.GoIdleSetsIdle := fun _ _ =>
  busWrite_encoded_checked_ready rfl rfl rfl fun _ => rfl

/-- The active-locality getter names a page when a locality is assigned and that page is stored (10 R25). -/
theorem activeLoc_eq_some_iff {r : Regs} {page : Page} :
    activeLoc r = some page ↔ r.locAssigned = true ∧ r.activeLocality = page := by
  cases hl : r.locAssigned <;> simp [activeLoc, hl]

/-- The bytes from the start of the buffer. -/
theorem readRange_zero (buf : List Host.Cell) (n : Nat) :
    readRange buf 0 n = (List.range n).map (fun k => readByte buf k) := by
  simp only [readRange, Nat.zero_add]

section Ready

variable {s : State} {size : Size} {page : Page}

/-- A ready CANCEL with `start` clear leaves its event only (42 R173). -/
theorem exec_wrCancelCancel_ignored (hr : BusReady s size page offCtrlCancel) (hs : s.regs.start = false) :
    exec (.wrCancelCancel size page) s = .next (s.wrote size page offCtrlCancel tokCancel) :=
  (busTx_ready hr).trans (by simp [hs])

/-- A ready CANCEL with `start` set is forwarded (42 R173). -/
theorem exec_wrCancelCancel_forwarded (hr : BusReady s size page offCtrlCancel) (hs : s.regs.start = true) :
    exec (.wrCancelCancel size page) s = .next (s.wrote size page offCtrlCancel tokCancel).forwardCancel :=
  (busTx_ready hr).trans (by simp [hs])

/-- A ready INVOKE while busy, or from a page that is not the active locality, leaves its event only (42 R175). -/
theorem exec_wrStartInvoke_ignored (hr : BusReady s size page offCtrlStart)
    (h : s.regs.start = true ∨ activeLoc s.regs ≠ some page) :
    exec (.wrStartInvoke size page) s = .next (s.wrote size page offCtrlStart tokInvoke) := by
  refine (busTx_ready hr).trans ?_
  obtain hs | ha := h
  · rw [if_pos hs]
  · rw [if_pos ha, ite_self]

/-- A ready INVOKE from the active locality while not busy hands the command to the backend (42 R175). -/
theorem exec_wrStartInvoke_accepted (hr : BusReady s size page offCtrlStart) (hs : s.regs.start = false)
    (ha : activeLoc s.regs = some page) :
    exec (.wrStartInvoke size page) s = .next ((s.wrote size page offCtrlStart tokInvoke).submitCommand page) :=
  (busTx_ready hr).trans (by simp [hs, ha])

end Ready

/-- Settles O22: the two branches of a ready CANCEL; the forwarded one appends its two events one after the other. -/
theorem cancelIsForwardedWhileBusy : Obligations.CancelIsForwardedWhileBusy := by
  intro size page
  obtain ⟨henc, hacc⟩ := encodedAs_and_accessChecked (i := .wrCancelCancel size page) rfl rfl
    (pack_eq_busWord 1#4 size page offCtrlCancel tokCancel)
  refine ⟨henc, hacc, fun s hr => ⟨exec_wrCancelCancel_ignored hr, fun r hs hp => ?_⟩⟩
  refine (exec_wrCancelCancel_forwarded hr hs).trans ?_
  simp [State.forwardCancel, State.wrote, State.emit, State.setPending, State.setReply, hp, offCtrlCancel, tokCancel]

/-- Settles O23: an INVOKE is ignored exactly where `start` is set or the active-locality getter does not give its page. -/
theorem invokeStartsOrIsIgnored : Obligations.InvokeStartsOrIsIgnored := by
  intro size page
  obtain ⟨henc, hacc⟩ := encodedAs_and_accessChecked (i := .wrStartInvoke size page) rfl rfl
    (pack_eq_busWord 1#4 size page offCtrlStart tokInvoke)
  refine ⟨henc, hacc, fun s hr => ⟨fun h => ?_, fun hs hl ha => ?_⟩⟩
  · refine exec_wrStartInvoke_ignored hr (h.imp_right fun hna hactive => ?_)
    obtain ⟨hl, ha⟩ := activeLoc_eq_some_iff.1 hactive
    simp [hl, ha] at hna
  · refine (exec_wrStartInvoke_accepted hr hs (activeLoc_eq_some_iff.2 ⟨hl, ha⟩)).trans ?_
    rw [State.submitCommand, readRange_zero]
    simp only [State.emit, State.setPending, State.setRegs, State.wrote, State.setReply, List.append_assoc]
    rfl

/-- The default header length as a number: bytes 2 to 5, most significant first (42 R177). -/
theorem tpmHeaderLen_toNat (buf : List Host.Cell) :
    (tpmHeaderLen buf).toNat = (readByte buf 2).toNat * 2 ^ 24 + (readByte buf 3).toNat * 2 ^ 16
      + (readByte buf 4).toNat * 2 ^ 8 + (readByte buf 5).toNat := by
  simp only [tpmHeaderLen, append_toNat]
  omega

/-- Settles O24: the two formats of `cmdLenOf`, and the request that an accepted INVOKE creates. -/
theorem commandLengthIsDeclaredAndClamped : Obligations.CommandLengthIsDeclaredAndClamped := by
  intro cfg buf n
  refine ⟨fun h => ?_, fun id leastMax h => ?_, ?_⟩
  · rw [← tpmHeaderLen_toNat, cmdLenOf, h]
  · rw [← readRange_zero, cmdLenOf, h]
  · rintro s rfl rfl rfl size page hr hs hl ha
    exact ⟨_, _, exec_wrStartInvoke_accepted hr hs (activeLoc_eq_some_iff.2 ⟨hl, ha⟩), rfl, rfl, rfl⟩

/-! ## The interface state (10 R46, 42 R178) -/

section Interface

variable {i : Instr} {s t : State}

/-- The interface state reads three flags. -/
theorem ifState_congr (hterm : t.terminated = s.terminated) (hstart : t.regs.start = s.regs.start)
    (hidle : t.regs.tpmIdle = s.regs.tpmIdle) : ifState t = ifState s := by
  simp only [ifState, hterm, hstart, hidle]

/-- The interface state of a device that is not busy. -/
theorem ifState_not_busy (ht : s.terminated = false) (hs : s.regs.start = false) :
    ifState s = if s.regs.tpmIdle then .idle else .ready := by
  simp [ifState, ht, hs]

/-- The interface state of a busy device. -/
theorem ifState_busy (ht : s.terminated = false) (hs : s.regs.start = true) : ifState s = .busy := by
  simp [ifState, ht, hs]

theorem ifState_eq_busy_iff (ht : s.terminated = false) : ifState s = .busy ↔ s.regs.start = true := by
  cases hs : s.regs.start <;> cases hi : s.regs.tpmIdle <;> simp [ifState, ht, hs, hi]

theorem Quiet.ifState_eq (h : Quiet s t) : ifState t = ifState s := by
  cases h <;> rfl

/-- Writing `tpmIdle` moves a device that is not busy, and does not show on a busy one (42 R170, R171). -/
theorem ifState_of_setIdle {b : Bool} (hs : s.terminated = false) (ht : t.terminated = false)
    (hr : t.regs = { s.regs with tpmIdle := b }) :
    ifState t = if ifState s = .busy then .busy else if b then .idle else .ready := by
  have hstart : t.regs.start = s.regs.start := by rw [hr]
  cases hb : s.regs.start with
  | true => rw [ifState_busy ht (hstart.trans hb), if_pos (ifState_busy hs hb)]
  | false =>
    have hne : ifState s ≠ .busy := by simp [ifState_eq_busy_iff hs, hb]
    rw [ifState_not_busy ht (hstart.trans hb), if_neg hne, hr]

/-- After an INVOKE from the active locality the device is busy, whether it started the command or found one pending; neither
branch writes `tpmIdle` (42 R175). -/
theorem ifState_of_invoke {size : Size} {page : Page} (ht : s.terminated = false)
    (h : exec (.wrStartInvoke size page) s = .next t) (hr : BusReady s size page offCtrlStart)
    (ha : activeLoc s.regs = some page) : ifState t = .busy ∧ t.regs.tpmIdle = s.regs.tpmIdle := by
  cases hs : s.regs.start with
  | true =>
    rw [exec_wrStartInvoke_ignored hr (.inl hs)] at h
    cases h
    exact ⟨ifState_busy ht hs, rfl⟩
  | false =>
    rw [exec_wrStartInvoke_accepted hr hs ha] at h
    cases h
    exact ⟨ifState_busy ht rfl, rfl⟩

/-- After a completion the device is not busy: it was held because nothing is pending, so that `start` is clear by the
invariant, or it cleared `start` (43 R201, R202). -/
theorem ifState_of_completionTx {st : Word} {latch : Bool} (hs : DevInv s) (ht : s.terminated = false)
    (h : completionTx s st latch = .next t) : ifState t = if s.regs.tpmIdle then .idle else .ready := by
  obtain ⟨hheld, rfl⟩ | ⟨-, -, rfl⟩ := completionTx_cases h
  · have hp : s.pending = none := hheld.resolve_left (by simp [ht])
    exact ifState_not_busy ht (hs.startIffPending.trans (by rw [hp]; rfl))
  · exact ifState_not_busy ht rfl

/-- A HOST.RESET is held while busy; else, since the invariants accept the configuration, it runs, and the startup decides
between idle and terminated (44 R220, R223). -/
theorem ifState_of_hostReset (hs : DevInv s) (ht : s.terminated = false) (h : exec .hostReset s = .next t) :
    ifState t = if ifState s = .busy then .busy else if startupResult s then .idle else .terminated := by
  have hslot : s.regs.start = s.pending.isSome := hs.startIffPending
  simp only [ifState_eq_busy_iff ht, hslot, Option.isSome_iff_ne_none]
  obtain ⟨hheld, rfl⟩ | ⟨-, hp, rfl⟩ := hostTx_cases h
  · have hp : s.pending ≠ none := hheld.resolve_left (by simp [ht])
    rw [if_pos hp]
    exact ifState_busy ht (hslot.trans (Option.isSome_iff_ne_none.2 hp))
  · rw [if_neg (not_not_intro hp)]
    obtain ⟨hna, -⟩ | ⟨-, hok, hx⟩ | ⟨-, hfail, hx⟩ := resetTx_cases (encode .hostReset) s fun s' => s'
    · exact absurd hs.cfgAccepted hna
    · rw [hx, if_pos hok]
      exact ifState_not_busy ht rfl
    · rw [hx, hfail]
      rfl

end Interface

/-- Settles O49: the table's rows by the lemmas above; of the other effects none writes `terminated`, `start` or
`tpmIdle`. -/
theorem interfaceStateTransitions : Obligations.InterfaceStateTransitions := by
  intro s t i hs ht hrestore h readies idles starts completes
  refine ⟨?_, ?_, ?_, ?_, ?_, fun hready hidle hstart hdone hreset => ?_⟩
  · rintro ⟨size, page, rfl, hr⟩
    obtain ⟨-, -, hx⟩ := cmdReadyClearsIdle size page
    rw [hx s hr] at h
    cases h
    exact ifState_of_setIdle (b := false) ht ht rfl
  · rintro ⟨size, page, rfl, hr⟩
    obtain ⟨-, -, hx⟩ := goIdleSetsIdle size page
    rw [hx s hr] at h
    cases h
    exact ifState_of_setIdle (b := true) ht ht rfl
  · rintro ⟨size, page, rfl, hr, ha⟩
    exact ifState_of_invoke ht h hr ha
  · rintro (rfl | ⟨st, rfl⟩)
    · exact ifState_of_completionTx hs ht h
    · exact ifState_of_completionTx hs ht h
  · rintro rfl
    exact ifState_of_hostReset hs ht h
  · cases exec_effect h with
    | quiet hq => exact hq.ifState_eq
    | readied hr => exact absurd ⟨_, _, rfl, hr⟩ hready
    | idled hr => exact absurd ⟨_, _, rfl, hr⟩ hidle
    | submitted hr _ ha => exact absurd ⟨_, _, rfl, hr, ha⟩ hstart
    | doneOk => exact absurd (.inl rfl) hdone
    | doneFail => exact absurd (.inr ⟨_, rfl⟩) hdone
    | reset => exact absurd rfl hreset
    | restored => exact absurd rfl hrestore
    | startupFailed hi => exact absurd hi (by simp [hreset, hrestore])
    | granted | relinquished | cancelled | stored | responded | saved => exact ifState_congr rfl rfl rfl

end Sys2Proof.Safety

namespace Sys2Proof.Safety

open Sys2Proof.Machine

/-! ## Completion (43_completion.md) -/

/-- Settles O39: every effect of a transaction appends events that the protocol admits in the slot's state. -/
theorem everyStepKeepsTheProtocol : Obligations.EveryStepKeepsTheProtocol :=
  fun _ _ hs hh h => step_histInv h hs hh

/-- A well-formed instruction and its word stand for each other. -/
theorem encodedAs_of_wellFormed {i : Instr} {t : TxWord} (hwf : wellFormed i = true) (ht : encode i = t) :
    EncodedAs i t :=
  ⟨ht, ht ▸ decodeEncodeRoundTrip i hwf⟩

/-- The word of a backend transaction as a number: its `SIZE` and `PAGE` are 0 (30 R101, R104). -/
theorem pack_size_page_zero (d : Word) (op : BitVec 4) (off : Offset) :
    pack d op 0#2 0#3 off = BitVec.ofNat 64 (d.toNat * 2 ^ 32 + op.toNat * 2 ^ 28 + off.toNat) := by
  have h : (pack d op 0#2 0#3 off).toNat = d.toNat * 2 ^ 32 + op.toNat * 2 ^ 28 + off.toNat := by
    simpa using pack_toNat d op 0#2 0#3 off
  rw [← h, BitVec.ofNat_toNat, BitVec.setWidth_eq]

section Backend

variable {s : State}

/-- A backend byte write is held after termination, with nothing pending, and at or above the capacity (43 R200). -/
theorem execBeWr_held {index : Offset} {b : Byte}
    (h : s.terminated = true ∨ ∀ r, s.pending = some r → r.outCap ≤ index.toNat) :
    execBeWr index b s = .next s.hold := by
  obtain ⟨u, hu⟩ := exists_exec_eq_next (.beWr index b) s
  obtain rfl | ⟨r, ht, hp, hlt, -⟩ := execBeWr_cases hu
  · exact hu
  · obtain hterm | hcap := h
    · simp [ht] at hterm
    · exact absurd (hcap r hp) hlt.not_ge

/-- A backend byte write below the capacity of the pending request stores its byte (43 R200). -/
theorem execBeWr_ready {index : Offset} {b : Byte} {r : Request} (ht : s.terminated = false)
    (hp : s.pending = some r) (hlt : index.toNat < r.outCap) :
    execBeWr index b s =
      .next (((s.setBuf (writeByte s.buf index.toNat b)).emit (.beWrite index.toNat b)).setReply .done) := by
  simp [execBeWr, ht, hp, hlt.not_ge]

/-- A completion is held after termination, and with nothing pending (43 R201, R202). -/
theorem completionTx_held {st : Word} {latch : Bool} (h : s.terminated = true ∨ s.pending = none) :
    completionTx s st latch = .next s.hold := by
  obtain ht | hp := h
  · simp [completionTx, ht]
  · simp [completionTx, hp]

/-- What both completions share: the two holds, and the handler on a pending request (43 R201 to R203). -/
theorem completionTx_held_or_completes (s : State) (st : Word) (latch : Bool) :
    (s.terminated = true → completionTx s st latch = .next (heldPost s)) ∧
      (s.pending = none → completionTx s st latch = .next (heldPost s)) ∧
      (s.terminated = false → s.pending ≠ none → completionTx s st latch = .next (s.complete st latch)) :=
  ⟨fun ht => completionTx_held (.inl ht), fun hp => completionTx_held (.inr hp), completionTx_ready⟩

end Backend

/-- Settles O26: the three holds, and the buffer that `writeByte` gives, known by its bytes. -/
theorem backendWritesResponseByte : Obligations.BackendWritesResponseByte := by
  intro index b
  have hword : encode (.beWr index b) = BitVec.ofNat 64 (b.toNat * 2 ^ 32 + 2 * 2 ^ 28 + index.toNat) := by
    have hb : (b.setWidth 32).toNat = b.toNat := BitVec.toNat_setWidth_of_le (by decide : 8 ≤ 32)
    rw [← hb]
    exact pack_size_page_zero (b.setWidth 32) 2#4 index
  refine ⟨encodedAs_of_wellFormed rfl hword, fun s => ⟨fun ht => ?_, fun hp => ?_, fun r hp hcap => ?_,
    fun r ht hp hlt hm => ⟨writeByte s.buf index.toNat b, ?_, ?_, fun j hj => ?_⟩⟩⟩
  · exact execBeWr_held (.inl ht)
  · exact execBeWr_held (.inr (by simp [hp]))
  · exact execBeWr_held (.inr (by simpa [hp] using hcap))
  · exact execBeWr_ready ht hp hlt
  · exact readByte_writeByte_same hm index.toNat b
  · exact readByte_writeByte_ne hj b

/-- Settles O27: the handler without the latch leaves `tpmSts`. -/
theorem completionOkClearsStart : Obligations.CompletionOkClearsStart :=
  ⟨encodedAs_of_wellFormed rfl rfl, fun s => completionTx_held_or_completes s 0#32 false⟩

/-- Settles O28: the handler with the latch sets `tpmSts`; a nonzero status makes the instruction well-formed. -/
theorem completionFailLatchesError : Obligations.CompletionFailLatchesError := by
  intro st hst
  have hwf : wellFormed (.beDoneFail st) = true := by simp [wellFormed, hst]
  have hword : encode (.beDoneFail st) = BitVec.ofNat 64 (st.toNat * 2 ^ 32 + 3 * 2 ^ 28) :=
    (pack_size_page_zero st 3#4 0#12).trans (by simp)
  exact ⟨encodedAs_of_wellFormed hwf hword, fun s => completionTx_held_or_completes s st true⟩

end Sys2Proof.Safety

namespace Sys2Proof.Safety

open Sys2Proof.Machine

/-! ## Reset, save and restore (44_reset_persistence.md) -/

section Host

variable {s e : State} {t : TxWord} {snap : Snapshot}

/-- A host transaction is held after termination and while a request is pending (60 R259). -/
theorem hostTx_held (h : s.terminated = true ∨ s.pending ≠ none) : hostTx s e = .next s.hold := by
  obtain ht | hp := h
  · simp [hostTx, ht]
  · simp [hostTx, hp]

/-- On a drained device a host transaction has its effect. -/
theorem hostTx_ready (ht : s.terminated = false) (hp : s.pending = none) : hostTx s e = .next e := by
  simp [hostTx, ht, hp]

/-- The two holds that the three host transactions share. -/
theorem hostTx_held_or_ready (s e : State) :
    (s.terminated = true → hostTx s e = .next (heldPost s)) ∧ (s.pending ≠ none → hostTx s e = .next (heldPost s)) ∧
      (s.terminated = false → s.pending = none → hostTx s e = .next e) :=
  ⟨fun ht => hostTx_held (.inl ht), fun hp => hostTx_held (.inr hp), hostTx_ready⟩

/-- The reset part is refused below the configuration's bound (44 R221). -/
theorem resetTx_refused {after : State → State} (ha : ¬ accepted s.cfg) :
    resetTx t s after = s.refuse .configBeMax :=
  if_pos ha

/-- In an accepted configuration the reset part runs, and the startup's result decides how it ends (44 R220, R223). -/
theorem resetTx_accepted {after : State → State} (ha : accepted s.cfg) :
    resetTx t s after =
      if startupResult s then after (s.resetDevice true) else (s.resetDevice false).startupFailed t :=
  if_neg (not_not_intro ha)

/-- A restore without a snapshot is refused (notes/assumptions/16). -/
theorem restoreTx_none (hs : s.snapArg = none) : restoreTx t s = s.refuse .restoreSnapshot := by
  simp [restoreTx, hs]

/-- A restore of an inadmissible snapshot is refused (44 R227). -/
theorem restoreTx_inadmissible (hs : s.snapArg = some snap) (ha : admissible s.cfg snap = false) :
    restoreTx t s = s.refuse .restoreSnapshot := by
  simp [restoreTx, hs, ha]

/-- A restore of an admissible snapshot is a reset and then the overwrite (44 R226). -/
theorem restoreTx_admissible (hs : s.snapArg = some snap) (ha : admissible s.cfg snap = true) :
    restoreTx t s = resetTx t s (fun s' => s'.overwrite snap) := by
  simp [restoreTx, hs, ha]

/-- A reset of a drained device below its configuration's bound is refused (44 R221). -/
theorem exec_hostReset_refused (ht : s.terminated = false) (hp : s.pending = none) (ha : ¬ accepted s.cfg) :
    exec .hostReset s = .next (refusedPost s .configBeMax) :=
  (hostTx_ready ht hp).trans (congrArg _ (resetTx_refused ha))

/-- The reset of a drained device of an accepted configuration (44 R220, R223). -/
theorem exec_hostReset_accepted (ht : s.terminated = false) (hp : s.pending = none) (ha : accepted s.cfg) :
    exec .hostReset s =
      .next (if startupResult s then s.resetDevice true
        else (s.resetDevice false).startupFailed (encode .hostReset)) :=
  (hostTx_ready ht hp).trans (congrArg _ (resetTx_accepted ha))

/-- The restore of an admissible snapshot into a drained device of an accepted configuration (44 R226). -/
theorem exec_hostRestore_accepted (ht : s.terminated = false) (hp : s.pending = none) (hs : s.snapArg = some snap)
    (hadm : admissible s.cfg snap = true) (ha : accepted s.cfg) :
    exec .hostRestore s =
      .next (if startupResult s then (s.resetDevice true).overwrite snap
        else (s.resetDevice false).startupFailed (encode .hostRestore)) :=
  (hostTx_ready ht hp).trans (congrArg _ ((restoreTx_admissible hs hadm).trans (resetTx_accepted ha)))

end Host

/-- Settles O30: the two holds, the refusal below the floor, and the reset with both startup results. -/
theorem hostResetReinitializes : Obligations.HostResetReinitializes := by
  refine ⟨encodedAs_of_wellFormed rfl rfl, fun s => ?_⟩
  obtain ⟨hterm, hbusy, -⟩ := hostTx_held_or_ready s (resetTx (encode .hostReset) s fun s' => s')
  refine ⟨hterm, hbusy, fun ht hp _ hlt => ?_, fun ht hp hsix hbound => ?_⟩
  · exact exec_hostReset_refused ht hp fun ha => absurd ha.six_le hlt.not_ge
  · exact exec_hostReset_accepted ht hp ((accepted_iff s.cfg).2 ⟨hsix, hbound⟩)

/-- Settles O57: the accepted configurations are those above both bounds; a failed startup keeps the negotiated size. -/
theorem configurationsBelowTheirBoundAreRefused : Obligations.ConfigurationsBelowTheirBoundAreRefused := by
  refine fun s ht hp => ⟨fun hlt => ?_, fun id leastMax hfmt hlt => ?_, fun hsix hbound => ?_⟩
  · exact exec_hostReset_refused ht hp fun ha => absurd ha.six_le hlt.not_ge
  · exact exec_hostReset_refused ht hp fun ha =>
      absurd (((accepted_iff s.cfg).1 ha).2 id leastMax hfmt) hlt.not_ge
  · refine ⟨_, exec_hostReset_accepted ht hp ((accepted_iff s.cfg).2 ⟨hsix, hbound⟩), ?_⟩
    split <;> exact ⟨rfl, rfl⟩

/-- Settles O31: the two holds, and the snapshot that `takeSnapshot` gives. -/
theorem hostSaveReturnsSnapshot : Obligations.HostSaveReturnsSnapshot :=
  ⟨encodedAs_of_wellFormed rfl rfl, fun s => hostTx_held_or_ready s ((s.emit .save).setReply (.snapshot (takeSnapshot s)))⟩

/-- Settles O53: the arm of `restoreTx` without a snapshot. -/
theorem restoreWithoutSnapshotIsRefused : Obligations.RestoreWithoutSnapshotIsRefused := fun _ ht hp hs =>
  (hostTx_ready ht hp).trans (congrArg _ (restoreTx_none hs))

/-- Settles O33: the admissible snapshot passes, and the reset part is refused. -/
theorem restoreNeedsAnAcceptedConfiguration : Obligations.RestoreNeedsAnAcceptedConfiguration :=
  fun _ _ ht hp hs hadm ha =>
    (hostTx_ready ht hp).trans (congrArg _ ((restoreTx_admissible hs hadm).trans (resetTx_refused ha)))

/-- Settles O32: the two holds, the refusal, and the reset with the overwrite after a successful startup. -/
theorem hostRestoreOverwrites : Obligations.HostRestoreOverwrites := by
  refine ⟨encodedAs_of_wellFormed rfl rfl, fun s => ?_⟩
  obtain ⟨hterm, hbusy, -⟩ := hostTx_held_or_ready s (restoreTx (encode .hostRestore) s)
  refine ⟨hterm, hbusy, fun ht hp snap hs => ⟨fun hadm => ?_, fun hadm ha => ?_⟩⟩
  · exact (hostTx_ready ht hp).trans (congrArg _ (restoreTx_inadmissible hs hadm))
  · intro size draws
    have hhist : s.hist ++ [.beReset, .startup size true, .restore] =
        s.hist ++ [.beReset, .startup size true] ++ [.restore] := by simp
    rw [hhist]
    exact exec_hostRestore_accepted ht hp hs hadm ha

/-! ## The admissible snapshots (44 R227) -/

section Admissible

variable {cfg : Config} {snap : Snapshot} {s : State}

/-- A word of a full snapshot stands in its list. -/
theorem getElem?_words (hlen : snap.words.length = 32) {j : Nat} (hj : j < 32) :
    snap.words[j]? = some (snapWord snap j) := by
  simp [snapWord, hlen, hj]

/-- Admissibility, condition by condition. -/
theorem admissible_iff :
    admissible cfg snap = true ↔
      snap.n = negotiated cfg ∧ snap.bytes.len = snap.n ∧ memWf snap.bytes.cells = true ∧
        memBelow snap.bytes.cells snap.bytes.len = true ∧ snap.words.length = 32 ∧
        (snapWord snap 0 = 0x81#32 ∨ snapWord snap 0 = 0x83#32) ∧
        snapWord snap 3 = (snapWord snap 0 >>> 1) &&& 1#32 ∧ (snapWord snap 17).toNat ≤ 3 ∧ snapWord snap 19 = 0#32 ∧
        ∀ j, j < 32 → j ≠ 0 → j ≠ 3 → j ≠ 17 → j ≠ 19 →
          snapWord snap j = wordAt (resetRegs cfg) (BitVec.ofNat 12 (4 * j)) := by
  simp only [admissible, Bool.and_eq_true, Bool.or_eq_true, decide_eq_true_eq, beq_iff_eq, List.all_eq_true,
    List.mem_range, and_assoc, or_assoc, ← or_iff_not_imp_left, ne_eq]

end Admissible

/-- Settles O34: a snapshot of 32 words holds each word that `snapWord` reads. -/
theorem admissibleSnapshots : Obligations.AdmissibleSnapshots := by
  intro cfg snap
  rw [admissible_iff]
  refine and_congr_right fun _ => and_congr_right fun _ => and_congr_right fun _ => and_congr_right fun _ =>
    and_congr_right fun hlen => ?_
  have hword {j : Nat} (hj : j < 32) := getElem?_words hlen hj
  simp +contextual only [hword, Nat.reduceLT, Option.some.injEq, forall_eq', exists_eq_left']
  rfl

/-! ## What a save takes and a restore gives back (44 R224 to R227) -/

/-- The registers of a reset, but for the four flags that a restore takes from its snapshot. -/
def flaggedRegs (cfg : Config) (locAssigned granted tpmSts tpmIdle : Bool) : Regs :=
  { resetRegs cfg with locAssigned, granted, tpmSts, tpmIdle }

/-- The registers that a restore leaves (44 R226). -/
def restoredRegs (cfg : Config) (snap : Snapshot) : Regs :=
  flaggedRegs cfg ((snapWord snap 0).getLsbD 1) ((snapWord snap 3).getLsbD 0) ((snapWord snap 17).getLsbD 0)
    ((snapWord snap 17).getLsbD 1)

@[simp] theorem overwrite_resetDevice_regs (s : State) (ok : Bool) (snap : Snapshot) :
    ((s.resetDevice ok).overwrite snap).regs = restoredRegs s.cfg snap :=
  rfl

/-- In a drained device that meets the invariants all registers but these flags are as a reset leaves them (10 R45). -/
theorem DevInv.regs_eq_flaggedRegs {s : State} (hs : DevInv s) (hp : s.pending = none) :
    s.regs = flaggedRegs s.cfg s.regs.locAssigned s.regs.locAssigned s.regs.tpmSts s.regs.tpmIdle := by
  obtain ⟨hcmdLow, hcmdHigh⟩ := halves_of_append hs.cmdAddrFixed
  obtain ⟨hrspLow, hrspHigh⟩ := halves_of_append hs.rspAddrFixed
  have hn : s.n = negotiated s.cfg := hs.nNegotiated
  have hsize : BitVec.ofNat 32 s.n = BitVec.ofNat 32 (negotiated s.cfg) := by rw [hn]
  have hstart : s.regs.start = false := hs.startIffPending.trans (by rw [hp]; rfl)
  exact (Regs.mk.injEq ..).mpr ⟨hs.established, rfl, hs.activeZero, hs.regValid, hs.grantedIffAssigned, hs.neverSeized,
    hs.intfIdFixed, hs.intfId2Fixed, rfl, rfl, hstart, hs.cmdSizeIsN.trans hsize, hcmdLow, hcmdHigh,
    hs.rspSizeIsN.trans hsize, hrspLow, hrspHigh⟩

section FlagBits

variable (r : Regs)

theorem locStateWord_getLsbD_one : (locStateWord r).getLsbD 1 = r.locAssigned := by
  simp only [locStateWord, BitVec.getLsbD_append, BitVec.getLsbD_ofBool]
  simp

theorem locStsWord_getLsbD_zero : (locStsWord r).getLsbD 0 = r.granted := by
  simp only [locStsWord, BitVec.getLsbD_append, BitVec.getLsbD_ofBool]
  simp

theorem ctrlStsWord_getLsbD_zero : (ctrlStsWord r).getLsbD 0 = r.tpmSts := by
  simp only [ctrlStsWord, BitVec.getLsbD_append, BitVec.getLsbD_ofBool]
  simp

theorem ctrlStsWord_getLsbD_one : (ctrlStsWord r).getLsbD 1 = r.tpmIdle := by
  simp only [ctrlStsWord, BitVec.getLsbD_append, BitVec.getLsbD_ofBool]
  simp

end FlagBits

section FlagWords

variable (cfg : Config) (assigned granted sts idle : Bool)

theorem locStateWord_flaggedRegs :
    locStateWord (flaggedRegs cfg assigned granted sts idle) = if assigned then 0x83#32 else 0x81#32 := by
  apply BitVec.eq_of_toNat_eq
  rw [locStateWord_toNat]
  cases assigned <;> rfl

theorem locStsWord_flaggedRegs :
    locStsWord (flaggedRegs cfg assigned granted sts idle) = if granted then 1#32 else 0#32 := by
  apply BitVec.eq_of_toNat_eq
  rw [locStsWord_toNat]
  cases granted <;> rfl

/-- Two words of the snapshot are not at the same offset (44 R224). -/
theorem wordOffset_ne {j k : Nat} (hj : j < 32) (hk : k < 32) (h : j ≠ k) :
    BitVec.ofNat 12 (4 * j) ≠ BitVec.ofNat 12 (4 * k) := by
  intro he
  have := congrArg BitVec.toNat he
  simp only [BitVec.toNat_ofNat] at this
  omega

/-- The words that show none of the four flags are those of a reset. -/
theorem wordAt_flaggedRegs {j : Nat} (hj : j < 32) (h0 : j ≠ 0) (h3 : j ≠ 3) (h17 : j ≠ 17) :
    wordAt (flaggedRegs cfg assigned granted sts idle) (BitVec.ofNat 12 (4 * j)) =
      wordAt (resetRegs cfg) (BitVec.ofNat 12 (4 * j)) := by
  have hstate : BitVec.ofNat 12 (4 * j) ≠ offLocState := wordOffset_ne (k := 0) hj (by decide) h0
  have hlsts : BitVec.ofNat 12 (4 * j) ≠ offLocSts := wordOffset_ne (k := 3) hj (by decide) h3
  have hcsts : BitVec.ofNat 12 (4 * j) ≠ offCtrlSts := wordOffset_ne (k := 17) hj (by decide) h17
  simp [wordAt, hstate, hlsts, hcsts, flaggedRegs, ctrlStartWord]

/-- After a reset nothing is started (10 R33). -/
theorem wordAt_resetRegs_ctrlStart : wordAt (resetRegs cfg) (BitVec.ofNat 12 (4 * 19)) = 0#32 :=
  BitVec.eq_of_toNat_eq (ctrlStartWord_toNat (resetRegs cfg))

/-- A word of two bits is the sum of them. -/
theorem toNat_eq_two_bits {w : Word} (h : w.toNat ≤ 3) : w.toNat = (w.getLsbD 0).toNat + 2 * (w.getLsbD 1).toNat := by
  have hw : w = BitVec.ofNat 32 w.toNat := by simp
  generalize w.toNat = k at *
  subst hw
  interval_cases k <;> rfl

end FlagWords

section SaveRestore

variable {s : State} {snap : Snapshot}

theorem snapWord_takeSnapshot (s : State) {j : Nat} (hj : j < 32) :
    snapWord (takeSnapshot s) j = wordAt s.regs (BitVec.ofNat 12 (4 * j)) := by
  simp [snapWord, takeSnapshot, snapshotWords, hj]

/-- A save of a drained device that meets the invariants gives an admissible snapshot (44 R227). -/
theorem DevInv.admissible_takeSnapshot (hs : DevInv s) (hp : s.pending = none) :
    admissible s.cfg (takeSnapshot s) = true := by
  have hword {j : Nat} (hj : j < 32) : snapWord (takeSnapshot s) j = wordAt
      (flaggedRegs s.cfg s.regs.locAssigned s.regs.locAssigned s.regs.tpmSts s.regs.tpmIdle)
      (BitVec.ofNat 12 (4 * j)) := by
    rw [snapWord_takeSnapshot s hj, ← hs.regs_eq_flaggedRegs hp]
  have h0 := (hword (j := 0) (by decide)).trans (locStateWord_flaggedRegs ..)
  have h3 := (hword (j := 3) (by decide)).trans (locStsWord_flaggedRegs ..)
  have h17 := (congrArg BitVec.toNat (hword (j := 17) (by decide))).trans (ctrlStsWord_toNat _)
  refine admissible_iff.2 ⟨hs.nNegotiated, rfl, hs.bufCanonical, hs.bufBounded, by simp [takeSnapshot, snapshotWords],
    ?_, ?_, ?_, ?_, fun j hj hj0 hj3 hj17 _ => ?_⟩
  · rw [h0]
    cases s.regs.locAssigned <;> simp
  · rw [h0, h3]
    cases s.regs.locAssigned <;> rfl
  · have := Bool.toNat_le s.regs.tpmSts
    have := Bool.toNat_le s.regs.tpmIdle
    simp only [flaggedRegs] at h17
    omega
  · rw [hword (by decide), wordAt_flaggedRegs _ _ _ _ _ (by decide) (by decide) (by decide) (by decide),
      wordAt_resetRegs_ctrlStart]
  · exact (hword hj).trans (wordAt_flaggedRegs _ _ _ _ _ hj hj0 hj3 hj17)

/-- The registers that the restore of a saved snapshot leaves are those of the saved device (D18). -/
theorem DevInv.restoredRegs_takeSnapshot (hs : DevInv s) (hp : s.pending = none) :
    restoredRegs s.cfg (takeSnapshot s) = s.regs := by
  have h0 : snapWord (takeSnapshot s) 0 = locStateWord s.regs := snapWord_takeSnapshot s (by decide)
  have h3 : snapWord (takeSnapshot s) 3 = locStsWord s.regs := snapWord_takeSnapshot s (by decide)
  have h17 : snapWord (takeSnapshot s) 17 = ctrlStsWord s.regs := snapWord_takeSnapshot s (by decide)
  rw [restoredRegs, h0, h3, h17, locStateWord_getLsbD_one, locStsWord_getLsbD_zero, ctrlStsWord_getLsbD_zero,
    ctrlStsWord_getLsbD_one, hs.grantedIffAssigned, ← hs.regs_eq_flaggedRegs hp]

/-- The word view of the registers that a restore leaves is the snapshot's (44 R227). -/
theorem wordAt_restoredRegs {cfg : Config} (hadm : admissible cfg snap = true) {j : Nat} (hj : j < 32) :
    wordAt (restoredRegs cfg snap) (BitVec.ofNat 12 (4 * j)) = snapWord snap j := by
  obtain ⟨-, -, -, -, -, h0, h3, h17, h19, hrest⟩ := admissible_iff.1 hadm
  by_cases hj0 : j = 0
  · subst hj0
    refine (locStateWord_flaggedRegs ..).trans ?_
    obtain h0 | h0 := h0 <;> rw [h0] <;> rfl
  by_cases hj3 : j = 3
  · subst hj3
    refine (locStsWord_flaggedRegs ..).trans ?_
    obtain h0 | h0 := h0 <;> rw [h3, h0] <;> rfl
  by_cases hj17 : j = 17
  · subst hj17
    exact BitVec.eq_of_toNat_eq ((ctrlStsWord_toNat _).trans (toNat_eq_two_bits h17).symm)
  refine (wordAt_flaggedRegs _ _ _ _ _ hj hj0 hj3 hj17).trans ?_
  by_cases hj19 : j = 19
  · subst hj19
    rw [wordAt_resetRegs_ctrlStart, h19]
  · exact (hrest j hj hj0 hj3 hj17 hj19).symm

/-- A save of the device that a restore leaves gives the restored snapshot (44 R227). -/
theorem takeSnapshot_overwrite_resetDevice (hadm : admissible s.cfg snap = true) (ok : Bool) :
    takeSnapshot ((s.resetDevice ok).overwrite snap) = snap := by
  obtain ⟨hn, hlen, -, -, hwords, -⟩ := admissible_iff.1 hadm
  have hview : snapshotWords (restoredRegs s.cfg snap) = snap.words := by
    refine List.ext_getElem (by simp [snapshotWords, hwords]) fun j _ hj => ?_
    have hget : snapWord snap j = snap.words[j] := List.getD_eq_getElem _ _ hj
    simpa [snapshotWords, ← hget] using wordAt_restoredRegs hadm (hwords ▸ hj)
  exact (Snapshot.mk.injEq ..).mpr ⟨hview, (Bytes.mk.injEq ..).mpr ⟨(hlen.trans hn).symm, rfl⟩, hn.symm⟩

/-- The offer of a restore of `snap` whose startup succeeds. -/
def restoreOffer (snap : Snapshot) : Offer := ⟨encode .hostRestore, some snap, some true⟩

/-- The restore of an admissible snapshot into a drained device of an accepted configuration, with a startup that succeeds. -/
theorem exec_hostRestore_succeeds (ht : s.terminated = false) (hp : s.pending = none) (hs : s.snapArg = some snap)
    (hadm : admissible s.cfg snap = true) (ha : accepted s.cfg) (hok : startupResult s = true) :
    exec .hostRestore s = .next ((s.resetDevice true).overwrite snap) := by
  rw [exec_hostRestore_accepted ht hp hs hadm ha, if_pos hok]

/-- A restore offered at launch leads to the device it leaves. -/
theorem reachable_restored {cfg : Config} (ha : accepted cfg) (hadm : admissible cfg snap = true) :
    Reachable cfg ((((State.init cfg).takeOffer (restoreOffer snap) []).resetDevice true).overwrite snap) := by
  refine .step _ _ (.offer (State.init cfg) [restoreOffer snap] (.launch ha)) ?_
  rw [step_of_decode_ok (o := restoreOffer snap) (rest := []) rfl (decodeEncodeRoundTrip .hostRestore rfl)]
  exact exec_hostRestore_succeeds (s := (State.init cfg).takeOffer (restoreOffer snap) []) rfl rfl rfl hadm ha rfl

end SaveRestore

/-- Settles O36: a drained device's words meet the conditions one by one, and an admissible snapshot is restored into the
launch state. -/
theorem admissibleMeansSavable : Obligations.AdmissibleMeansSavable :=
  ⟨fun _ hs hp => hs.admissible_takeSnapshot hp, fun _ _ ha hadm =>
    ⟨_, reachable_restored ha hadm, rfl, rfl, takeSnapshot_overwrite_resetDevice (by exact hadm) true⟩⟩

/-- Settles O35: the snapshot is admissible, and its restore leaves the saved registers, buffer and size. -/
theorem restoreUndoesSave : Obligations.RestoreUndoesSave := by
  refine fun s hs ht hp => ⟨_, takeSnapshot s, hostTx_ready ht hp, rfl, sameDevice_refl s,
    fun r hcfg hrt hrp harg hok => ?_⟩
  have hadm : admissible r.cfg (takeSnapshot s) = true := hcfg ▸ hs.admissible_takeSnapshot hp
  have hacc : accepted r.cfg := hcfg ▸ hs.cfgAccepted
  refine ⟨_, exec_hostRestore_succeeds hrt hrp harg hadm hacc hok, ?_, rfl, ?_, hrp.trans hp.symm⟩
  · rw [overwrite_resetDevice_regs, hcfg, hs.restoredRegs_takeSnapshot hp]
  · exact (congrArg negotiated hcfg).trans hs.nNegotiated.symm

end Sys2Proof.Safety

namespace Sys2Proof.Safety

open Sys2Proof.Machine

/-! ## Refusals, the terminated device and the record (60_exceptions.md) -/

/-- Settles O8: the refusal of the state that took the offer, and no step where nothing is offered. -/
theorem stepRefusesIllFormedWords : Obligations.StepRefusesIllFormedWords := fun _ =>
  ⟨fun _ _ _ ho hd => step_of_decode_error ho hd, step_of_no_offer⟩

/-- Settles O25: only an accepted INVOKE is not quiet, and its page is the active locality, which the invariant keeps at 0. -/
theorem onlyPageZeroStartsCommands : Obligations.OnlyPageZeroStartsCommands := by
  intro s t size page hs hpage h
  cases exec_effect h with
  | quiet hq => exact hq.sameDevice
  | submitted _ _ hactive =>
    obtain ⟨-, hpg⟩ := activeLoc_eq_some_iff.1 hactive
    exact absurd (hpg.symm.trans hs.activeZero) hpage
  | startupFailed hi => simp at hi

/-- Settles O48: each of the four shells (the access check, the byte write, the completion and the host's) holds first. -/
theorem terminatedDeviceTakesNoStep : Obligations.TerminatedDeviceTakesNoStep := by
  intro i s ht
  cases hb : busAccess i with
  | some a =>
    obtain ⟨hheld, -⟩ := accessChecked_of_busAccess hb s
    exact hheld ht
  | none =>
    cases i with
    | beWr => exact execBeWr_held (.inl ht)
    | beDoneOk | beDoneFail => exact completionTx_held (.inl ht)
    | hostReset | hostSave | hostRestore => exact hostTx_held (.inl ht)
    | _ => cases hb

/-- The record of `u` continues that of `s`: the fault record and the history are extended, and no mark is cleared
(10 R43, R44). -/
structure RecordGrows (s u : State) : Prop where
  faults : s.faults <+: u.faults
  hist : s.hist <+: u.hist
  refused : s.refused = true → u.refused = true
  terminated : s.terminated = true → u.terminated = true

section Record

variable {i : Instr} {s u : State}

theorem RecordGrows.refl (s : State) : RecordGrows s s := ⟨List.prefix_rfl, List.prefix_rfl, id, id⟩

theorem RecordGrows.trans {t : State} (h : RecordGrows s t) (h' : RecordGrows t u) : RecordGrows s u :=
  ⟨h.faults.trans h'.faults, h.hist.trans h'.hist, h'.refused ∘ h.refused, h'.terminated ∘ h.terminated⟩

/-- A change that leaves the faults and the marks and appends events continues the record. -/
theorem recordGrows_of_hist (es : List Event) (hf : u.faults = s.faults) (hh : u.hist = s.hist ++ es)
    (hr : u.refused = s.refused) (ht : u.terminated = s.terminated) : RecordGrows s u :=
  ⟨hf ▸ List.prefix_rfl, hh ▸ List.prefix_append .., hr.trans, ht.trans⟩

theorem recordGrows_raise (s : State) (code : Fault) (t : TxWord) : RecordGrows s (s.raise code t) :=
  ⟨List.prefix_append .., List.prefix_append .., id, id⟩

theorem recordGrows_resetDevice (s : State) (ok : Bool) : RecordGrows s (s.resetDevice ok) :=
  recordGrows_of_hist _ rfl rfl rfl rfl

/-- A failed startup sets the mark of termination and enters the fault (44 R223). -/
theorem recordGrows_startupFailed (s : State) (t : TxWord) : RecordGrows s (s.startupFailed t) :=
  ⟨List.prefix_append .., List.prefix_append .., id, fun _ => rfl⟩

theorem Quiet.recordGrows (h : Quiet s u) : RecordGrows s u := by
  cases h with
  | held => exact ⟨List.prefix_rfl, List.prefix_rfl, id, id⟩
  | faulted code t => exact recordGrows_raise s code t
  | refused => exact ⟨List.prefix_rfl, List.prefix_append .., fun _ => rfl, id⟩
  | read | wrote => exact recordGrows_of_hist [_] rfl rfl rfl rfl

/-- No effect takes anything out of the record, not a reset's or a restore's either (60 R254). -/
theorem Effect.recordGrows (h : Effect s i u) : RecordGrows s u := by
  cases h with
  | quiet hq => exact hq.recordGrows
  | granted | relinquished | readied | idled | stored | responded | doneOk | doneFail | saved =>
    exact recordGrows_of_hist [_] rfl rfl rfl rfl
  | cancelled | submitted => exact recordGrows_of_hist [_, _] rfl (List.append_assoc ..) rfl rfl
  | reset => exact recordGrows_resetDevice s true
  | restored =>
    exact (recordGrows_resetDevice s true).trans (recordGrows_of_hist [.restore] rfl rfl rfl rfl)
  | startupFailed => exact (recordGrows_resetDevice s false).trans (recordGrows_startupFailed _ _)

theorem recordGrows_takeOffer (s : State) (o : Offer) (rest : List Offer) : RecordGrows s (s.takeOffer o rest) :=
  ⟨List.prefix_rfl, List.prefix_rfl, id, id⟩

theorem step_recordGrows (h : step s = .next u) : RecordGrows s u := by
  obtain ⟨-, rfl⟩ | ⟨o, rest, -, ⟨c, -, rfl⟩ | ⟨i, -, hi⟩⟩ := step_cases h
  · exact .refl _
  · exact (recordGrows_takeOffer s o rest).trans (Quiet.refused (.illFormed c)).recordGrows
  · exact (recordGrows_takeOffer s o rest).trans (exec_effect hi).recordGrows

end Record

/-- Settles O47: every effect continues the record, and so does taking the offer. -/
theorem faultsAndMarksAreNeverUndone : Obligations.FaultsAndMarksAreNeverUndone := by
  intro s t h
  obtain ⟨⟨fs, hfs⟩, ⟨es, hes⟩, hrefused, hterminated⟩ := step_recordGrows h
  exact ⟨⟨fs, hfs.symm⟩, ⟨es, hes.symm⟩, hrefused, hterminated, step_cfg_eq h⟩

/-! ## The races of the backend with the bus (60 R257) -/

section ByteRaces

variable {s : State} {size : Size} {page : Page} {off : Offset} {v : Word} {k : Nat} {index : Offset} {b : Byte}

/-- A ready access finds the device present. -/
theorem BusReady.present (hr : BusReady s size page off) : s.terminated = false := by
  obtain ⟨ht, -⟩ := hr
  exact ht

/-- Lane `k` of what a buffer access reads is the byte at the access's index plus `k` (40 R132). -/
theorem readLE_access_lane (m : List Host.Cell) (hk : k < sizeBytes size) :
    (readLE m (bufIndex off) (sizeBytes size)).toNat / 2 ^ (8 * k) % 2 ^ 8 = (readByte m (bufIndex off + k)).toNat :=
  readLE_lane m (bufIndex off) (sizeBytes_bounds size).2 hk

/-- A byte of a ready buffer access lies below the capacity of the pending request, which is the buffer's size. -/
theorem DevInv.lt_outCap {r : Request} {j : Nat} (hs : DevInv s) (hp : s.pending = some r) (hoff : 0x80 ≤ off.toNat)
    (hr : BusReady s size page off) (hj : j < off.toNat - 0x80 + sizeBytes size) : j < r.outCap := by
  obtain ⟨hcap, -⟩ := hs.requestFits r hp
  obtain ⟨-, -, -, hb⟩ := hr
  rw [hcap]
  exact hj.trans_le (hb hoff)

/-- After a ready buffer write the request is still pending, with its race mark updated (40 R133, 20 R86). -/
theorem exec_wrBuf_pending {r : Request} (hp : s.pending = some r) (hr : BusReady s size page off) :
    ∃ t, exec (.wrBuf size page off v) s = .next t ∧ t.terminated = s.terminated ∧
      t.pending = some { r with inRaced := r.inRaced || decide (off.toNat - 0x80 < r.inLen) } := by
  refine ⟨_, exec_wrBuf_ready hr, rfl, ?_⟩
  show raceMark (off.toNat - 0x80) s.pending = _
  rw [raceMark_eq_map, hp]
  rfl

end ByteRaces

/-- Settles O51: the second of the two transactions reads or overwrites what the first left in the byte. -/
theorem backendByteRacesHaveBothOrders : Obligations.BackendByteRacesHaveBothOrders := by
  intro s r size page off v k index b hs hp hoff hr hk hindex lane
  have ht := hr.present
  have hlt : index.toNat < r.outCap := hs.lt_outCap hp hoff hr (by omega)
  have hbe := execBeWr_ready (index := index) (b := b) ht hp hlt
  have hwf := hs.bufCanonical
  have hidx : bufIndex off + k = index.toNat := hindex.symm
  refine ⟨?_, ?_, ?_, ?_⟩
  · refine ⟨_, readLE s.buf (bufIndex off) (sizeBytes size),
      execAll_pair (exec_rdBuf_ready hr) (execBeWr_ready ht hp hlt), by simp [State.readBack], ?_⟩
    exact hidx ▸ readLE_access_lane s.buf hk
  · refine ⟨_, _, execAll_pair hbe (exec_rdBuf_ready (busReady_congr (s := s) rfl rfl hr)), rfl, ?_⟩
    refine (readLE_access_lane (writeByte s.buf index.toNat b) hk).trans ?_
    rw [hidx, readByte_writeByte_same hwf]
  · obtain ⟨t, hw, hterm, hpend⟩ := exec_wrBuf_pending (v := v) hp hr
    have hinv : DevInv t := (exec_effect hw).devInv hs
    exact ⟨_, execAll_pair hw (execBeWr_ready (hterm.trans ht) hpend hlt),
      readByte_writeByte_same hinv.bufCanonical index.toNat b⟩
  · refine ⟨_, execAll_pair hbe (exec_wrBuf_ready (busReady_congr (s := s) rfl rfl hr)), ?_⟩
    rw [← hidx]
    exact (congrArg BitVec.toNat (readByte_writeLE_inside (memWf_writeByte hwf _ b) hk v)).trans (byteLane_toNat v k)

section RegisterReads

variable {s : State} {size : Size} {page : Page} {off : Offset}

/-- Every access to a 4-aligned register is ready on a device that is present, through any page of the window (40 R130). -/
theorem busReady_register (ht : s.terminated = false) (hpage : page.toNat < 5) (halign : off.toNat % 4 = 0)
    (hoff : off.toNat < 0x80) : BusReady s size page off := by
  refine ⟨ht, hpage, ?_, fun hbuf => absurd hbuf hoff.not_ge⟩
  cases size <;> simp only [sizeBytes] <;> omega

/-- A read of any size at a 4-aligned offset shows all of a word that fits its first byte (20 R74). -/
theorem readLanes_eq_wordAt {r : Regs} (halign : off &&& ~~~3#12 = off) (hw : (wordAt r off).toNat < 2 ^ 8) :
    readLanes r size off = wordAt r off := by
  have hlane : off &&& 3#12 = 0#12 := by
    rw [← halign, BitVec.and_assoc, show ~~~3#12 &&& 3#12 = 0#12 from rfl, BitVec.and_zero]
  have hfit : (wordAt r off).toNat < 2 ^ (8 * sizeBytes size) :=
    hw.trans_le (Nat.pow_le_pow_right (by decide) (by have := (sizeBytes_bounds size).1; omega))
  apply BitVec.eq_of_toNat_eq
  rw [readLanes_eq, halign, hlane]
  simpa using Nat.mod_eq_of_lt hfit

/-- A read of Control Start shows `start`, at any size (10 R33). -/
theorem readLanes_ctrlStart (r : Regs) (size : Size) :
    readLanes r size offCtrlStart = BitVec.ofNat 32 r.start.toNat := by
  have hword : (wordAt r offCtrlStart).toNat = r.start.toNat := ctrlStartWord_toNat r
  have hle := Bool.toNat_le r.start
  rw [readLanes_eq_wordAt (by decide) (by omega), ← hword, BitVec.ofNat_toNat, BitVec.setWidth_eq]

/-- Bit 0 of a read of Control Status is `tpmSts`, at any size (10 R31). -/
theorem readLanes_ctrlSts_getLsbD_zero (r : Regs) (size : Size) :
    (readLanes r size offCtrlSts).getLsbD 0 = r.tpmSts := by
  have hword : (wordAt r offCtrlSts).toNat = r.tpmSts.toNat + 2 * r.tpmIdle.toNat := ctrlStsWord_toNat r
  have hsts := Bool.toNat_le r.tpmSts
  have hidle := Bool.toNat_le r.tpmIdle
  rw [readLanes_eq_wordAt (by decide) (by omega)]
  exact ctrlStsWord_getLsbD_zero r

end RegisterReads

/-- `done` is the completion with this status: on a pending request it runs the Completion Handler (43 R201, R202). -/
def Completes (done : Instr) (status : Word) (latch : Bool) : Prop :=
  ∀ m : State, m.terminated = false → m.pending ≠ none → exec done m = .next (m.complete status latch)

/-- Both completions run the handler, BE.DONE.FAIL with the latch. -/
theorem exists_completes {done : Instr} {latch : Bool}
    (h : done = .beDoneOk ∧ latch = false ∨ ∃ st, st ≠ 0#32 ∧ done = .beDoneFail st ∧ latch = true) :
    ∃ status, Completes done status latch := by
  obtain ⟨rfl, rfl⟩ | ⟨status, -, rfl, rfl⟩ := h
  · exact ⟨0#32, fun _ => completionTx_ready⟩
  · exact ⟨status, fun _ => completionTx_ready⟩

/-- An event just emitted is among those since any earlier point of the history. -/
theorem mem_drop_emit {m : State} {n : Nat} {e : Event} (h : n ≤ m.hist.length) : e ∈ (m.emit e).hist.drop n := by
  rw [State.emit_hist, List.drop_append_of_le_length h]
  simp

section CompletionRaces

variable {s : State} {done : Instr} {status : Word} {latch : Bool} {size : Size} {page : Page} {off : Offset}

/-- A register read before the completion records the value from before it. -/
theorem Completes.after_rdReg (hd : Completes done status latch) (hp : s.pending ≠ none)
    (hr : BusReady s size page off) :
    ∃ t, execAll [.rdReg size page off, done] s = .next t ∧
      .bus .read page off size (readLanes s.regs size off) ∈ t.hist.drop s.hist.length :=
  ⟨_, execAll_pair (exec_rdReg_ready hr) (hd _ hr.present hp), by simp [State.complete, State.readBack]⟩

/-- A register read after the completion returns the value that it left. -/
theorem Completes.before_rdReg (hd : Completes done status latch) (hp : s.pending ≠ none)
    (hr : BusReady s size page off) :
    ∃ t, execAll [done, .rdReg size page off] s = .next t ∧
      t.reply = .data size (readLanes (s.complete status latch).regs size off) :=
  ⟨_, execAll_pair (hd s hr.present hp) (exec_rdReg_ready (busReady_congr (s := s) rfl rfl hr)), rfl⟩

/-- An INVOKE before the completion is ignored, since `start` is set (42 R175). -/
theorem Completes.after_invoke (hd : Completes done status latch) (hp : s.pending ≠ none)
    (hr : BusReady s size page offCtrlStart) (hstart : s.regs.start = true) :
    ∃ t, execAll [.wrStartInvoke size page, done] s = .next t ∧ t.pending = none ∧ t.regs.start = false ∧
      ∀ len cap bytes, ¬ .submit len cap bytes ∈ t.hist.drop s.hist.length :=
  ⟨_, execAll_pair (exec_wrStartInvoke_ignored hr (.inl hstart)) (hd _ hr.present hp), rfl, rfl,
    by simp [State.complete, State.wrote]⟩

/-- An INVOKE from the active locality after the completion submits a new request. -/
theorem Completes.before_invoke (hd : Completes done status latch) (hp : s.pending ≠ none)
    (hr : BusReady s size page offCtrlStart) (ha : activeLoc s.regs = some page) :
    ∃ t q bytes, execAll [done, .wrStartInvoke size page] s = .next t ∧ t.regs.start = true ∧ t.pending = some q ∧
      q.locality = page ∧ .submit q.inLen q.outCap bytes ∈ t.hist.drop s.hist.length := by
  have hinvoke := exec_wrStartInvoke_accepted (s := s.complete status latch) (busReady_congr (s := s) rfl rfl hr) rfl ha
  exact ⟨_, _, _, execAll_pair (hd s hr.present hp) hinvoke, rfl, rfl, rfl,
    mem_drop_emit (by simp [State.complete, State.wrote])⟩

/-- A CANCEL before the completion is forwarded, since `start` is set (42 R173). -/
theorem Completes.after_cancel (hd : Completes done status latch) (hp : s.pending ≠ none)
    (hr : BusReady s size page offCtrlCancel) (hstart : s.regs.start = true) :
    ∃ t, execAll [.wrCancelCancel size page, done] s = .next t ∧ .cancelFwd ∈ t.hist.drop s.hist.length :=
  ⟨_, execAll_pair (exec_wrCancelCancel_forwarded hr hstart)
      (hd _ hr.present (by simpa [State.forwardCancel, State.wrote] using hp)),
    by simp [State.complete, State.forwardCancel, State.wrote]⟩

/-- A CANCEL after the completion is not forwarded. -/
theorem Completes.before_cancel (hd : Completes done status latch) (hp : s.pending ≠ none)
    (hr : BusReady s size page offCtrlCancel) :
    ∃ t, execAll [done, .wrCancelCancel size page] s = .next t ∧ ¬ .cancelFwd ∈ t.hist.drop s.hist.length :=
  ⟨_, execAll_pair (hd s hr.present hp)
      (exec_wrCancelCancel_ignored (s := s.complete status latch) (busReady_congr (s := s) rfl rfl hr) rfl),
    by simp [State.complete, State.wrote]⟩

/-- A buffer write before the completion stores and marks the request; the completion leaves the buffer, and the backend
may overwrite any byte of the write before it completes (20 R78, 40 R133). -/
theorem Completes.after_wrBuf {r : Request} {v : Word} (hd : Completes done status latch) (hs : DevInv s)
    (hp : s.pending = some r) (hoff : 0x80 ≤ off.toNat) (hr : BusReady s size page off) :
    ∃ t, exec (.wrBuf size page off v) s = .next t ∧
      t.pending = some { r with inRaced := r.inRaced || decide (off.toNat - 0x80 < r.inLen) } ∧
      (∃ u, exec done t = .next u ∧ u.pending = none ∧ u.buf = t.buf) ∧
      ∀ (index : Offset) (b : Byte),
        off.toNat - 0x80 ≤ index.toNat → index.toNat < off.toNat - 0x80 + sizeBytes size →
          ∃ u, execAll [.beWr index b, done] t = .next u ∧ u.pending = none ∧ readByte u.buf index.toNat = b := by
  obtain ⟨t, hw, hterm, hpend⟩ := exec_wrBuf_pending (v := v) hp hr
  have hinv : DevInv t := (exec_effect hw).devInv hs
  have ht : t.terminated = false := hterm.trans hr.present
  have hne : t.pending ≠ none := by simp [hpend]
  refine ⟨t, hw, hpend, ⟨_, hd t ht hne, rfl, rfl⟩, fun index b _ hlt => ?_⟩
  have hcap : index.toNat < r.outCap := hs.lt_outCap hp hoff hr hlt
  exact ⟨_, execAll_pair (execBeWr_ready ht hpend hcap) (hd _ ht hne), rfl,
    readByte_writeByte_same hinv.bufCanonical index.toNat b⟩

/-- A buffer write after the completion keeps its bytes, and there is no request to mark. -/
theorem Completes.before_wrBuf {v : Word} (hd : Completes done status latch) (hs : DevInv s) (hp : s.pending ≠ none)
    (hr : BusReady s size page off) :
    ∃ t, execAll [done, .wrBuf size page off v] s = .next t ∧ t.pending = none ∧
      ∀ k, k < sizeBytes size → (readByte t.buf (off.toNat - 0x80 + k)).toNat = v.toNat / 2 ^ (8 * k) % 2 ^ 8 :=
  ⟨_, execAll_pair (hd s hr.present hp) (exec_wrBuf_ready (busReady_congr (s := s) rfl rfl hr)), rfl,
    fun k hk => (congrArg BitVec.toNat (readByte_writeLE_inside hs.bufCanonical hk v)).trans (byteLane_toNat v k)⟩

end CompletionRaces

/-- Settles O29: the two orders of each race by the lemmas above; the invariant says that `start` is set while a request is
pending. -/
theorem completionRacesHaveBothOrders : Obligations.CompletionRacesHaveBothOrders := by
  intro s r done latch hs ht hp hdone
  obtain ⟨status, hd⟩ := exists_completes hdone
  have hne : s.pending ≠ none := by simp [hp]
  have hstart : s.regs.start = true := hs.startIffPending.trans (by rw [hp]; rfl)
  refine ⟨⟨_, hd s ht hne, rfl, rfl, rfl⟩, fun size page hpage => ?_, fun size page off v hoff hr =>
    ⟨hd.after_wrBuf hs hp hoff hr, hd.before_wrBuf hs hne hr⟩⟩
  have hrStart : BusReady s size page offCtrlStart := busReady_register ht hpage (by decide) (by decide)
  have hrSts : BusReady s size page offCtrlSts := busReady_register ht hpage (by decide) (by decide)
  have hrCancel : BusReady s size page offCtrlCancel := busReady_register ht hpage (by decide) (by decide)
  refine ⟨?_, ?_, ?_, ?_, hd.after_invoke hne hrStart hstart, hd.before_invoke hne hrStart,
    hd.after_cancel hne hrCancel hstart, hd.before_cancel hne hrCancel⟩
  · have hread := hd.after_rdReg hne hrStart
    rwa [readLanes_ctrlStart, hstart] at hread
  · have hread := hd.before_rdReg hne hrStart
    rwa [readLanes_ctrlStart] at hread
  · obtain ⟨t, hx, hread⟩ := hd.after_rdReg hne hrSts
    exact ⟨t, _, hx, readLanes_ctrlSts_getLsbD_zero s.regs size, hread⟩
  · obtain ⟨t, hx, hreply⟩ := hd.before_rdReg hne hrSts
    exact ⟨t, _, hx, readLanes_ctrlSts_getLsbD_zero (s.complete status latch).regs size, hreply⟩

end Sys2Proof.Safety

namespace Sys2Proof.Safety

open Sys2Proof.Machine

/-! ## Reset and hazards (70_reset_and_hazards.md) -/

/-- The command and flag words of the launch state are fixed: of the flags only `tpmEstablished`, `tpmRegValidSts` and
`tpmIdle` are set, and the command registers store nothing (10 section 8). -/
theorem wordAt_init_flags (cfg : Config) :
    let r := (State.init cfg).regs
    wordAt r 0x000#12 = 0x81#32 ∧ wordAt r 0x008#12 = 0#32 ∧ wordAt r 0x00C#12 = 0#32 ∧ wordAt r 0x040#12 = 0#32 ∧
      wordAt r 0x048#12 = 0#32 ∧ wordAt r 0x044#12 = 0x2#32 ∧ wordAt r 0x04C#12 = 0#32 :=
  ⟨BitVec.eq_of_toNat_eq (locStateWord_toNat _), wordAt_eq_zero _ (by decide),
    BitVec.eq_of_toNat_eq (locStsWord_toNat _), wordAt_eq_zero _ (by decide), wordAt_eq_zero _ (by decide),
    BitVec.eq_of_toNat_eq (ctrlStsWord_toNat _), BitVec.eq_of_toNat_eq (ctrlStartWord_toNat _)⟩

/-- A reset whose startup succeeds leaves the device fields of the launch state, in whatever drained state it is taken. -/
theorem sameDevice_init_resetDevice {s : State} (hp : s.pending = none) :
    sameDevice (State.init s.cfg) (s.resetDevice true) :=
  ⟨rfl, rfl, rfl, hp⟩

/-- Settles O11: the words of the flags are computed, those of the identification and the geometry are in the invariants
of the launch state, and a reset that succeeds is `resetDevice`. -/
theorem launchStateIsTheResetState : Obligations.LaunchStateIsTheResetState := by
  intro cfg ha
  have hinv := devInv_init ha
  obtain ⟨hlocState, hlocCtrl, hlocSts, hctrlReq, hctrlCancel, hctrlSts, hctrlStart⟩ := wordAt_init_flags cfg
  refine ⟨⟨hlocState, hlocCtrl, hlocSts, hctrlReq, hctrlCancel, hinv.intfIdFixed, hinv.intfId2Fixed, hctrlSts, hctrlStart,
    hinv.cmdSizeIsN, hinv.rspSizeIsN, hinv.cmdAddrFixed, hinv.rspAddrFixed⟩, rfl, fun _ => rfl, rfl, rfl, rfl, rfl, rfl, ?_⟩
  rintro s rfl ht hp hok
  refine ⟨s.resetDevice true, ?_, sameDevice_init_resetDevice hp⟩
  rw [exec_hostReset_accepted ht hp ha, if_pos hok]

/-! ## The end of a pending request -/

section Completion

variable {i : Instr} {s u : State}

/-- The race mark of a buffer write takes no request away. -/
theorem raceMark_eq_none_iff (k : Nat) (p : Option Request) : raceMark k p = none ↔ p = none := by
  rw [raceMark_eq_map, Option.map_eq_none_iff]

/-- Of the effects, only a completion empties the request slot, and it records its event. -/
theorem Effect.complete_of_pending_none (h : Effect s i u) (hs : s.pending ≠ none) (hu : u.pending = none) :
    ∃ status, .complete status ∈ u.hist.drop s.hist.length := by
  cases h with
  | quiet hq =>
    obtain ⟨-, -, -, hpending⟩ := hq.sameDevice
    exact absurd (hpending.symm.trans hu) hs
  | doneOk | doneFail => exact ⟨_, mem_drop_emit le_rfl⟩
  | granted | relinquished | readied | idled | responded => exact absurd hu hs
  | cancelled => exact absurd (Option.map_eq_none_iff.1 hu) hs
  | submitted => cases hu
  | stored => exact absurd ((raceMark_eq_none_iff ..).1 hu) hs
  | saved _ hp | reset _ hp | restored _ hp | startupFailed _ _ hp => exact absurd hp hs

end Completion

/-- Settles O52: nothing offered and a refused word leave the request slot; of the effects only the completions empty it. -/
theorem onlyACompletionEndsARequest : Obligations.OnlyACompletionEndsARequest := by
  intro s t hs hst ht
  obtain ⟨-, rfl⟩ | ⟨o, rest, -, ⟨c, -, rfl⟩ | ⟨i, -, hi⟩⟩ := step_cases hst
  · exact absurd ht hs
  · exact absurd ht hs
  · exact (exec_effect hi).complete_of_pending_none hs ht

/-! ## Runs of a driver program (70 R292) -/

section Runs

variable {cfg : Config} {P : List DriverOp} {s t : State} {o : Offer} {c d : RunPoint}

/-- A transaction that an agent takes is an offer and a step. -/
theorem takes.reachable (h : takes s o t) (hs : Reachable cfg s) : Reachable cfg t :=
  .step _ _ (.offer s [o] hs) h.left

theorem takes.recordGrows (h : takes s o t) : RecordGrows s t := by
  obtain ⟨hf, hh, hr, ht⟩ := step_recordGrows h.left
  exact ⟨hf, hh, hr, ht⟩

/-- Whichever agent moves, it takes a transaction. -/
theorem Move.exists_takes (h : Move c d) : ∃ o, takes c.state o d.state := by
  cases h with
  | driver _ _ _ _ _ ht => exact ⟨_, ht⟩
  | other _ _ _ o _ _ ht => exact ⟨o, ht⟩

/-- A run from a reachable state passes reachable states only. -/
theorem passes.reachable (h : passes P s c) (hs : Reachable cfg s) : Reachable cfg c.state := by
  induction h with
  | refl => exact hs
  | tail _ hmove ih =>
    obtain ⟨o, ht⟩ := hmove.exists_takes
    exact ht.reachable ih

/-- A run takes nothing out of the record. -/
theorem passes.recordGrows (h : passes P s c) : RecordGrows s c.state := by
  induction h with
  | refl => exact .refl s
  | tail _ hmove ih =>
    obtain ⟨o, ht⟩ := hmove.exists_takes
    exact ih.trans ht.recordGrows

theorem clean_iff : clean s = true ↔ s.faults = [] ∧ s.refused = false ∧ s.terminated = false := by
  simp [clean, and_assoc]

/-- A record that is clean later was clean before: no fault and no mark is ever undone. -/
theorem RecordGrows.clean_of_clean (h : RecordGrows s t) (ht : clean t = true) : clean s = true := by
  obtain ⟨hfaults, hrefused, hterminated⟩ := clean_iff.1 ht
  refine clean_iff.2 ⟨List.prefix_nil.1 (hfaults ▸ h.faults), ?_, ?_⟩
  · exact Bool.eq_false_of_not_eq_true fun hr => by simp [h.refused hr] at hrefused
  · exact Bool.eq_false_of_not_eq_true fun hr => by simp [h.terminated hr] at hterminated

theorem isLaunch.reachable (h : isLaunch cfg s) : Reachable cfg s := by
  obtain ⟨ha, rfl⟩ | ⟨hr, -⟩ := h
  · exact .launch ha
  · exact hr

end Runs

/-- Settles O54: the states of a run are reachable, the record only grows along it, and its end has no request pending. -/
theorem runsKeepTheInvariants : Obligations.RunsKeepTheInvariants := by
  intro cfg P s hs
  refine ⟨fun c hc => ?_, fun t ⟨hpass, hp⟩ => ?_⟩
  · obtain ⟨-, hcfg, hinv, hhist⟩ := (hc.reachable hs.reachable).sound
    exact ⟨hcfg, hinv, hhist, fun d hd => hd.recordGrows.clean_of_clean⟩
  · have hreach : Reachable cfg t := hpass.reachable hs.reachable
    obtain ⟨-, -, hinv, hhist⟩ := hreach.sound
    exact ⟨.inr ⟨hreach, hp⟩, hinv.startIffPending.trans (by rw [hp]; rfl), hhist.trans (by rw [hp]; rfl)⟩

section Progress

variable {i : Instr} {s t : State} {o : Offer} {size : Size} {page : Page} {off : Offset}

/-- An agent takes the transaction that its word decodes to, when that is not held. -/
theorem takes_of_exec (hd : decode o.word = .ok i) (hx : exec i (s.takeOffer o []) = .next t) (hr : t.reply ≠ .held) :
    takes s o t :=
  ⟨(step_of_decode_ok rfl hd).trans hx, hr⟩

/-- An instruction whose word has operation 0 or 1 is a bus access (30 R102). -/
theorem exists_busAccess_of_isBusWord (h : isBusWord (encode i)) :
    ∃ size page off, busAccess i = some (size, page, off) := by
  cases i with
  | beWr | beDoneOk | beDoneFail | hostReset | hostSave | hostRestore =>
    rw [isBusWord, encode, txOp_pack] at h
    exact absurd h (by decide)
  | _ => exact ⟨_, _, _, rfl⟩

/-- The effect that a bus instruction has in the shell `busTx` answers a value or nothing, never a hold. -/
theorem exists_exec_eq_busTx_reply (h : busAccess i = some (size, page, off)) (s : State) :
    ∃ effect, exec i s = busTx (encode i) size page off s effect ∧ effect.reply ≠ .held := by
  cases i with
  | wrCancelCancel | wrStartInvoke =>
    cases h
    refine ⟨_, rfl, ?_⟩
    split_ifs <;> exact nofun
  | _ => cases h <;> exact ⟨_, rfl, nofun⟩

/-- On a device that is not terminated no bus access is held: the access check faults, or the access has its effect
(40 R130). -/
theorem reply_ne_held_of_busAccess (hb : busAccess i = some (size, page, off)) (ht : s.terminated = false)
    (h : exec i s = .next t) : t.reply ≠ .held := by
  obtain ⟨effect, he, hr⟩ := exists_exec_eq_busTx_reply hb s
  obtain ⟨hterm, -⟩ | ⟨-, code, rfl⟩ | ⟨-, rfl⟩ := busTx_cases (he.symm.trans h)
  · exact absurd (hterm.symm.trans ht) (by decide)
  · exact nofun
  · exact hr

/-- On a device that is not terminated a bus word always takes its step: it is refused, it faults, or it has its effect. -/
theorem exists_takes_of_isBusWord (ht : s.terminated = false) (hw : isBusWord o.word) : ∃ t, takes s o t := by
  cases hd : decode o.word with
  | error c => exact ⟨_, step_of_decode_error rfl hd, nofun⟩
  | ok i =>
    have hword : encode i = o.word := (decode_eq_ok_iff.1 hd).encode_eq
    obtain ⟨size, page, off, hb⟩ := exists_busAccess_of_isBusWord (hword ▸ hw)
    obtain ⟨t, hx⟩ := exists_exec_eq_next i (s.takeOffer o [])
    exact ⟨t, takes_of_exec hd hx (reply_ne_held_of_busAccess (s := s.takeOffer o []) hb ht hx)⟩

/-- The offer of a successful completion. -/
def completionOffer : Offer := ⟨encode .beDoneOk, none, none⟩

/-- The backend can complete a pending request of a device that is not terminated (43 R201). -/
theorem takes_completion (ht : s.terminated = false) (hp : s.pending ≠ none) :
    takes s completionOffer ((s.takeOffer completionOffer []).complete 0#32 false) :=
  takes_of_exec (decodeEncodeRoundTrip .beDoneOk rfl) (completionTx_ready ht hp) nofun

end Progress

/-- Settles O55: both moves ask for what an ended point lacks; a bus word is never held on a device that is present, and the
backend's completion is the step that a pending request always has. -/
theorem runsStopOnlyAtTheirEnd : Obligations.RunsStopOnlyAtTheirEnd := by
  refine ⟨fun c d hended hmove => ?_, fun op rest s ht hw => ?_, fun P s ht hp => ?_⟩
  · cases hmove with
    | driver op rest _ _ _ _ => exact List.cons_ne_nil op rest hended.left
    | other _ _ _ _ _ hne _ => exact hne hended
  · obtain ⟨t, htakes⟩ := exists_takes_of_isBusWord (o := ⟨driverWord op, none, none⟩) ht hw
    exact ⟨t, htakes, .driver op rest s t hw htakes⟩
  · have hword : isOtherWord completionOffer.word := by
      rw [isOtherWord, completionOffer, encode, txOp_pack]
      decide
    exact ⟨_, .other P s _ completionOffer hword (fun hended => hp hended.right) (takes_completion ht hp), rfl⟩

/-! ## The stalled backend (70 R288) -/

section Stall

variable {s : State} {page : Page}

/-- The offer of a poll. -/
def pollOffer (page : Page) : Offer := ⟨driverWord (.pollLoop page), none, none⟩

/-- The state that a poll leaves which returned busy: the read of Control Start, with value 1. -/
def pollBusy (page : Page) (s : State) : State :=
  (s.takeOffer (pollOffer page) []).readBack .b4 page offCtrlStart 1#32

/-- The run in which the loop polls for ever and nothing else moves. -/
def stalledRun (page : Page) (P : List DriverOp) (s : State) (k : Nat) : RunPoint :=
  ⟨.pollLoop page :: P, (pollBusy page)^[k] s⟩

/-- A poll is a read of Control Start (30 R113). -/
theorem driverWord_pollLoop (page : Page) :
    driverWord (.pollLoop page) = encode (.rdReg .b4 page offCtrlStart) :=
  (pack_eq_busWord 0#4 .b4 page offCtrlStart 0#32).symm

theorem isBusWord_pollLoop (page : Page) : isBusWord (driverWord (.pollLoop page)) := by
  rw [isBusWord, driverWord_pollLoop, encode, packRead, txOp_pack]
  decide

theorem decode_pollLoop (page : Page) :
    decode (driverWord (.pollLoop page)) = .ok (.rdReg .b4 page offCtrlStart) := by
  rw [driverWord_pollLoop]
  exact decodeEncodeRoundTrip _ rfl

/-- While `start` is set a poll through a page of the window returns 1, and the driver stays in its loop. -/
theorem move_pollBusy (P : List DriverOp) (ht : s.terminated = false) (hstart : s.regs.start = true)
    (hpage : page.toNat < 5) : Move ⟨.pollLoop page :: P, s⟩ ⟨.pollLoop page :: P, pollBusy page s⟩ := by
  have hready : BusReady (s.takeOffer (pollOffer page) []) .b4 page offCtrlStart :=
    busReady_register ht hpage (by decide) (by decide)
  have hone : readLanes s.regs .b4 offCtrlStart = 1#32 := by rw [readLanes_ctrlStart, hstart]; rfl
  have hread : exec (.rdReg .b4 page offCtrlStart) (s.takeOffer (pollOffer page) []) = .next (pollBusy page s) := by
    rw [pollBusy, ← hone]
    exact exec_rdReg_ready hready
  exact .driver (.pollLoop page) P s (pollBusy page s) (isBusWord_pollLoop page)
    (takes_of_exec (decode_pollLoop page) hread nofun)

/-- Polls leave the registers, the request slot and the mark of termination. -/
theorem pollBusy_iterate (page : Page) (s : State) (k : Nat) :
    ((pollBusy page)^[k] s).regs = s.regs ∧ ((pollBusy page)^[k] s).pending = s.pending ∧
      ((pollBusy page)^[k] s).terminated = s.terminated := by
  induction k with
  | zero => exact ⟨rfl, rfl, rfl⟩
  | succ k ih =>
    rw [Function.iterate_succ_apply']
    exact ih

theorem stalledRun_succ (page : Page) (P : List DriverOp) (s : State) (k : Nat) :
    stalledRun page P s (k + 1) = ⟨.pollLoop page :: P, pollBusy page (stalledRun page P s k).state⟩ :=
  congrArg (RunPoint.mk _) (Function.iterate_succ_apply' ..)

end Stall

/-- Settles O56: in `stalledRun` every poll finds `start` set, as the invariant says of a pending request, and leaves the
device as it was. -/
theorem aStalledBackendIsAHang : Obligations.AStalledBackendIsAHang := by
  intro s P page hs ht hp hpage
  refine ⟨stalledRun page P s, rfl, fun k => ?_⟩
  have hstart : s.regs.start = true := hs.startIffPending.trans (Option.isSome_iff_ne_none.2 hp)
  obtain ⟨hregs, hpending, hterm⟩ := pollBusy_iterate page s k
  rw [stalledRun_succ]
  exact ⟨move_pollBusy P (hterm.trans ht) (by rw [hregs, hstart]) hpage, rfl, hpending, rfl⟩

end Sys2Proof.Safety
